-- ==== Sys2Proof/Word.lean ====
section
/-! DEFINITION. The word types of WFA (spec/30_encoding.md R81 and R94). Bit 0 is the least significant bit everywhere
(spec/00_scope.md R10). What the spec treats as numbers is a number: a port identifier and a handler identifier are a
`Nat` (spec/20_memory.md R51), a raw value is a `Nat` of any size (R9), and a time or a duration is an `Int` counted
in time units TU (R13). -/

namespace Sys2Proof

/-- R81: the event word, `W[63:0]`, the spec's transport form of one operation. -/
abbrev EventWord := BitVec 64

/-- R94: the operands of one CYCLE, the vector of the sampled pins rst, d1_n, d0_n with d0_n at bit 0. -/
abbrev PinVector := BitVec 3

end Sys2Proof
end

