-- ==== Sys2Proof/Syntax.lean ====
section
/-! DEFINITION. The operations of WFA (spec/30_encoding.md R80), one constructor for each row of
spec/opcode_table.json, the two forms in which an operation is carried, and the reasons a word is reserved. -/

namespace Sys2Proof

/-- R80: WFA has these operations and no others. The operands are those of the operation's own rule; they have no
transport limit (R81). -/
inductive Instr where
  /-- R101: the two edge sources (`none` is absent) and the timeout (`none` is omitted). -/
  | create (src0 src1 : Option Nat) (timeout : Option Int)
  /-- R102 -/
  | subscribe (h : Nat)
  /-- R103 -/
  | nop
  /-- R104: one edge notification, resolved against CFG when it is applied. -/
  | edge (p : Nat) (t : Int)
  /-- R105: the resolved edge on line A. -/
  | edge0 (t : Int)
  /-- R106: the resolved edge on line B. -/
  | edge1 (t : Int)
  /-- R107: the resolved edge from an unregistered port. -/
  | edgex (p : Nat) (t : Int)
  /-- R108 -/
  | tick (now : Int)
  /-- R131 -/
  | fromraw (raw : Nat)
  /-- R135 -/
  | lpb (raw : Nat)
  /-- R134 -/
  | fc (raw : Nat)
  /-- R133 -/
  | cn (raw : Nat)
  /-- R132 -/
  | tpb (raw : Nat)
  /-- R136, R138 -/
  | isvalid (raw : Nat)
  /-- R137 -/
  | tostring (raw : Nat)
  /-- R157: one rising edge of clk with the sampled pins. -/
  | cycle (rst d1n d0n : Bool)
  deriving DecidableEq, Repr

/-- R80, column "Format": an operation is carried by an event word (R81) or, a CYCLE, by a pin vector (R94). -/
inductive Code where
  | word (w : EventWord)
  | pins (v : PinVector)
  deriving DecidableEq, Repr

/-- One element of the event sequence (R18, R40): carried by a code, or in the model's own event type, which has no
limit on times and raw values (R81). -/
inductive Input where
  | code (c : Code)
  | event (i : Instr)
  deriving DecidableEq, Repr

/-- R89: why an event word is reserved. -/
inductive Reserved where
  /-- op = 0x0 with any other bit set (R83). -/
  | nopBits
  /-- a reserved value of op (R82). -/
  | opcode
  /-- EDGE with fn or pb nonzero (R84). -/
  | edgeField
  /-- TICK with fn, pb or pa nonzero (R85). -/
  | tickField
  /-- a codec query with pb or pa nonzero (R88). -/
  | queryField
  /-- a codec query with fn >= 7 (R88). -/
  | queryFn
  /-- CREATE with fn[3] = 1 (R86). -/
  | createFn3
  /-- CREATE with source 0 absent and pa nonzero (R86). -/
  | createSource0
  /-- CREATE with source 1 absent and pb nonzero (R86). -/
  | createSource1
  /-- CREATE with the timeout omitted and v nonzero (R86). -/
  | createTimeout
  /-- SUBSCRIBE with a bit of fn, pb, pa or v[39:16] set (R87). -/
  | subscribeField
  deriving DecidableEq, Repr

end Sys2Proof
end

