-- ==== Sys2Proof/WellFormed.lean ====
section
/-! DEFINITION. Which operations an event word or a pin vector can carry (spec/30_encoding.md R81, R84 to R88). The
registered ports `a` and `b` matter only to the resolved edges, whose word is that of the EDGE they come from. -/

namespace Sys2Proof

/-- R81: a port identifier that the 8 bits of `pa` or `pb` hold. -/
def portFits (p : Nat) : Bool := decide (p < 2 ^ 8)

/-- R84, R85: an unsigned time that the 40 bits of `v` hold. -/
def timeFits (t : Int) : Bool := decide (0 ≤ t ∧ t < 2 ^ 40)

/-- R86: a timeout that the 40 bits of `v`, read in two's complement, hold. -/
def timeoutFits (t : Int) : Bool := decide (-2 ^ 39 ≤ t ∧ t < 2 ^ 39)

/-- R88: a raw value that the 40 bits of `v` hold. -/
def rawFits (raw : Nat) : Bool := decide (raw < 2 ^ 40)

/-- R87: a handler identifier that `v[15:0]` holds. -/
def handlerFits (h : Nat) : Bool := decide (h < 2 ^ 16)

/-- The operation can be carried: every operand fits its field, and a resolved EDGEX comes from a port that is neither
registered line (R107). -/
def wellFormed (a b : Nat) : Instr → Bool
  | .create src0 src1 timeout => src0.all portFits && src1.all portFits && timeout.all timeoutFits
  | .subscribe h => handlerFits h
  | .nop => true
  | .edge p t => portFits p && timeFits t
  | .edge0 t => portFits a && timeFits t
  | .edge1 t => portFits b && timeFits t
  | .edgex p t => portFits p && timeFits t && decide (p ≠ a) && decide (p ≠ b)
  | .tick now => timeFits now
  | .fromraw raw => rawFits raw
  | .lpb raw => rawFits raw
  | .fc raw => rawFits raw
  | .cn raw => rawFits raw
  | .tpb raw => rawFits raw
  | .isvalid raw => rawFits raw
  | .tostring raw => rawFits raw
  | .cycle _ _ _ => true

end Sys2Proof
end

