-- ==== Sys2Proof/Decode.lean ====
section
/-! DEFINITION. The decoder and the encoder of event words and pin vectors (spec/30_encoding.md R81 to R89, R94, R95). -/

namespace Sys2Proof

/-! ### The fields of the event word (R81) -/

def opField (w : EventWord) : BitVec 4 := w.extractLsb' 60 4
def fnField (w : EventWord) : BitVec 4 := w.extractLsb' 56 4
def pbField (w : EventWord) : BitVec 8 := w.extractLsb' 48 8
def paField (w : EventWord) : BitVec 8 := w.extractLsb' 40 8
def vField (w : EventWord) : BitVec 40 := w.extractLsb' 0 40

/-- R81: the word reads `op fn pb pa v` from the most significant digit down. -/
def packWord (op fn : BitVec 4) (pb pa : BitVec 8) (v : BitVec 40) : EventWord :=
  op ++ fn ++ pb ++ pa ++ v

/-! ### Decoding (R95) -/

/-- R84, R85: `v` as an unsigned time. -/
def timeOf (v : BitVec 40) : Int := (v.toNat : Int)

/-- R86: `sext_40(v)`, R12. -/
def timeoutOf (v : BitVec 40) : Int := v.toInt

/-- R84. -/
def decodeEdge (w : EventWord) : Except Reserved Instr :=
  if fnField w = 0 ∧ pbField w = 0 then .ok (.edge (paField w).toNat (timeOf (vField w)))
  else .error .edgeField

/-- R85. -/
def decodeTick (w : EventWord) : Except Reserved Instr :=
  if fnField w = 0 ∧ pbField w = 0 ∧ paField w = 0 then .ok (.tick (timeOf (vField w)))
  else .error .tickField

/-- R88: the codec operation that `fn` selects, on the raw value `v`. -/
def decodeQueryFn (fn : BitVec 4) (raw : Nat) : Except Reserved Instr :=
  if fn = 0 then .ok (.fromraw raw)
  else if fn = 1 then .ok (.lpb raw)
  else if fn = 2 then .ok (.fc raw)
  else if fn = 3 then .ok (.cn raw)
  else if fn = 4 then .ok (.tpb raw)
  else if fn = 5 then .ok (.isvalid raw)
  else if fn = 6 then .ok (.tostring raw)
  else .error .queryFn

/-- R88. The must-be-zero fields are checked before `fn`, the order of R95 (3) and (4). -/
def decodeQuery (w : EventWord) : Except Reserved Instr :=
  if pbField w = 0 ∧ paField w = 0 then decodeQueryFn (fnField w) (vField w).toNat
  else .error .queryField

/-- R86: an edge source is its identifier field when its presence bit is set. -/
def sourceOf (present : Bool) (field : BitVec 8) : Option Nat :=
  if present then some field.toNat else none

/-- R86. -/
def decodeCreate (w : EventWord) : Except Reserved Instr :=
  let fn := fnField w
  if fn.getLsbD 3 then .error .createFn3
  else if !fn.getLsbD 0 && paField w != 0 then .error .createSource0
  else if !fn.getLsbD 1 && pbField w != 0 then .error .createSource1
  else if !fn.getLsbD 2 && vField w != 0 then .error .createTimeout
  else .ok (.create (sourceOf (fn.getLsbD 0) (paField w)) (sourceOf (fn.getLsbD 1) (pbField w))
    (if fn.getLsbD 2 then some (timeoutOf (vField w)) else none))

/-- R87. -/
def decodeSubscribe (w : EventWord) : Except Reserved Instr :=
  if fnField w = 0 ∧ pbField w = 0 ∧ paField w = 0 ∧ (vField w).toNat < 2 ^ 16 then
    .ok (.subscribe (vField w).toNat)
  else .error .subscribeField

/-- R95: the decoder of event words, total, with the verdict "reserved" (R89) for every word of no operation. -/
def decodeWord (w : EventWord) : Except Reserved Instr :=
  if w = 0 then .ok .nop
  else if opField w = 0x0 then .error .nopBits
  else if opField w = 0x1 then decodeEdge w
  else if opField w = 0x2 then decodeTick w
  else if opField w = 0x4 then decodeQuery w
  else if opField w = 0x8 then decodeCreate w
  else if opField w = 0x9 then decodeSubscribe w
  else .error .opcode

/-- R94: the vector is `rst, d1_n, d0_n` from bit 2 down; every value of it is a legal CYCLE. -/
def decodePins (v : PinVector) : Instr :=
  .cycle (v.getLsbD 2) (v.getLsbD 1) (v.getLsbD 0)

def decodeCode : Code → Except Reserved Instr
  | .word w => decodeWord w
  | .pins v => .ok (decodePins v)

/-- An element of the event sequence as an operation. -/
def decodeInput : Input → Except Reserved Instr
  | .code c => decodeCode c
  | .event i => .ok i

/-! ### Encoding (R83 to R88, R94) -/

/-- R84, with `pa` the firing port. -/
def edgeWord (p : Nat) (t : Int) : EventWord :=
  packWord 0x1 0 0 (BitVec.ofNat 8 p) (BitVec.ofInt 40 t)

/-- R88. -/
def queryWord (fn : BitVec 4) (raw : Nat) : EventWord :=
  packWord 0x4 fn 0 0 (BitVec.ofNat 40 raw)

/-- R86: `fn[0]` source 0 present, `fn[1]` source 1 present, `fn[2]` timeout given, `fn[3]` zero. -/
def createFn (src0 src1 : Option Nat) (timeout : Option Int) : BitVec 4 :=
  BitVec.ofBool false ++ BitVec.ofBool timeout.isSome ++ BitVec.ofBool src1.isSome ++ BitVec.ofBool src0.isSome

/-- R86. -/
def createWord (src0 src1 : Option Nat) (timeout : Option Int) : EventWord :=
  packWord 0x8 (createFn src0 src1 timeout) (BitVec.ofNat 8 (src1.getD 0)) (BitVec.ofNat 8 (src0.getD 0))
    (BitVec.ofInt 40 (timeout.getD 0))

/-- The code of an operation in a block whose registered lines are `a` and `b`. A resolved edge has no word of its own:
it is the EDGE it came from (R104, R105, R106, R107; log 15). -/
def encode (a b : Nat) : Instr → Code
  | .create src0 src1 timeout => .word (createWord src0 src1 timeout)
  | .subscribe h => .word (packWord 0x9 0 0 0 (BitVec.ofNat 40 h))
  | .nop => .word 0
  | .edge p t => .word (edgeWord p t)
  | .edge0 t => .word (edgeWord a t)
  | .edge1 t => .word (edgeWord b t)
  | .edgex p t => .word (edgeWord p t)
  | .tick now => .word (packWord 0x2 0 0 0 (BitVec.ofInt 40 now))
  | .fromraw raw => .word (queryWord 0 raw)
  | .lpb raw => .word (queryWord 1 raw)
  | .fc raw => .word (queryWord 2 raw)
  | .cn raw => .word (queryWord 3 raw)
  | .tpb raw => .word (queryWord 4 raw)
  | .isvalid raw => .word (queryWord 5 raw)
  | .tostring raw => .word (queryWord 6 raw)
  | .cycle rst d1n d0n => .pins (BitVec.ofBool rst ++ BitVec.ofBool d1n ++ BitVec.ofBool d0n)

/-- R104: which resolved edge an EDGE is, by equality of identifiers only; every other operation is itself. -/
def resolve (a b : Nat) : Instr → Instr
  | .edge p t => if p = a then .edge0 t else if p = b then .edge1 t else .edgex p t
  | i => i

/-! ### The table's numbering -/

/-- The code of an instruction whose `nbits` bits are `w` in the numbering of spec/opcode_table.json: a row of at most
8 bits is the PIN row, whose vector has 3 bits with zeros above them (log 23); a longer row is a 64-bit event word. -/
def codeOfTable (nbits w : Nat) : Option Code :=
  if nbits ≤ 8 then
    if w < 2 ^ 3 then some (.pins (BitVec.ofNat 3 w)) else none
  else if nbits ≤ 64 ∧ w < 2 ^ 64 then some (.word (BitVec.ofNat 64 w))
  else none

/-- The operation this decoder reads from the code, `none` where it refuses. -/
def decodeTableWord (nbits w : Nat) : Option Instr :=
  match codeOfTable nbits w with
  | none => none
  | some c =>
    match decodeCode c with
    | .ok i => some i
    | .error _ => none

end Sys2Proof
end

