-- ==== Sys2Proof/Config.lean ====
section
/-! DEFINITION. The parameters of an instance of the spec (spec/00_scope.md R7, spec/93_implementation_defined.md
section 2), held as plain data, and the free values the spec leaves open, as constants without a body. -/

namespace Sys2Proof

/-- R164: the parameter SAME_CYCLE_ORDER. -/
inductive SameCycleOrder where
  | edgesFirst
  | tickFirst
  | any
  deriving DecidableEq, Repr

/-- R138: the parameter ISVALID_WIDE. -/
inductive IsValidWide where
  | ignoreHigh
  | falseIfHigh
  | upperUnmasked
  deriving DecidableEq, Repr

/-- R164: the six orders in which EDGE0, EDGE1 and TICK of one cycle can be applied. `o01T` is `edges_first`,
`oT01` is `tick_first`. -/
inductive SlotOrder where
  | o01T
  | o10T
  | o0T1
  | o1T0
  | oT01
  | oT10
  deriving DecidableEq, Repr, Inhabited

/-- R7: the static parameters of one block. PORT_A, PORT_B and the timeout of the event machine are arguments of
CREATE, and P_MAX is a premise of claims, so none of them is a field. -/
structure Config where
  /-- ACC_W, `none` for `inf` (R9). -/
  accW : Option Nat
  /-- MS, time units in one millisecond. -/
  ms : Nat
  /-- The static T_INACT of the pin-level binding (R161), where a negative value cannot be expressed. -/
  tInact : Nat
  /-- T_POLL, which is also CFG.T_POLL (R20: written by "static"). -/
  tPoll : Nat
  /-- TS_W, the width of NOW and LAT in the binding. -/
  tsW : Nat
  /-- F_CLK in Hz. -/
  fClk : Nat
  sameCycleOrder : SameCycleOrder
  isValidWide : IsValidWide
  deriving DecidableEq, Repr

/-- FREE VALUE (log 3). R37: the value LAT takes at CREATE and rst is any time; the argument is the number of the
draw. -/
opaque Config.latDraw : Nat → Int

/-- FREE VALUE (log 4). R164: under SAME_CYCLE_ORDER = any, the order of the events of one cycle; the argument is the
number of the draw. -/
opaque Config.orderDraw : Nat → SlotOrder

/-- FREE VALUE (log 6). R137: RENDER, the text of TOSTRING from leading parity, facility code, card number, trailing
parity and validity. No claim may depend on the text. -/
opaque Config.render : BitVec 1 → BitVec 8 → BitVec 16 → BitVec 1 → Bool → String

end Sys2Proof
end

