-- ==== Sys2Proof/Machine/State.lean ====
section
/-! DEFINITION. The architectural state of WFA (spec/10_state.md R20), with the state of the pin-level binding
(R31 to R34), and the model's own fields (the input still to come, the answer of the last query, the draw counter).
State is plain data. WFA has no memory (spec/20_memory.md R50), so State holds none. -/

namespace Sys2Proof.Machine

/-- R181: the sub-causes of ConfigurationError, in the order CREATE tests them (R192). -/
inductive ConfigCause where
  | source0Absent
  | source1Absent
  | notDistinct
  | timeoutNotPositive
  deriving DecidableEq, Repr

/-- R26, R184: the FAULT register. Code 3 is never written and has no value of the type (93 I9; log 17). -/
inductive FaultReg where
  | none
  | configurationError (cause : ConfigCause)
  | invalidPort (p : Nat)
  deriving DecidableEq, Repr

/-- R25: one decoded-card event, the snapshot and the handlers that receive it, in order. -/
structure OutEvent where
  raw : Nat
  subs : List Nat
  deriving DecidableEq, Repr

/-- R30, R131: a CardData is its raw value, unmasked. -/
structure CardData where
  raw : Nat
  deriving DecidableEq, Repr

/-- R28: the control state. `finalize` names the inside of the finalize transition; it is never the control state of
a State. -/
inductive ControlState where
  | idle
  | collect
  | finalize
  deriving DecidableEq, Repr

/-- R157: the events a clock cycle can apply. -/
inductive CycleEvent where
  | edge0
  | edge1
  | tick
  deriving DecidableEq, Repr

/-- R131 to R137: what a codec query returns to the host. -/
inductive Reply where
  | cardData (card : CardData)
  | lpb (bit : BitVec 1)
  | fc (code : BitVec 8)
  | cn (number : BitVec 16)
  | tpb (bit : BitVec 1)
  | isValid (valid : Bool)
  | text (rendering : String)
  deriving DecidableEq, Repr

/-- R151: the output ports of the pin-level binding. -/
structure OutputPins where
  cardStb : Bool
  cardRaw : Nat
  lpb : BitVec 1
  fc : BitVec 8
  cn : BitVec 16
  tpb : BitVec 1
  ok : Bool
  fault : BitVec 2
  deriving DecidableEq, Repr

/-- R20: the complete state, flat. -/
structure State where
  /-- R7: the static parameters; CFG.T_POLL is `par.tPoll`. Nothing writes them. -/
  par : Config
  /-- R117: a CREATE (or a cycle with rst = 1, R212) has been applied. -/
  created : Bool
  /-- R23: CFG.PORT_A. -/
  portA : Nat
  /-- R23: CFG.PORT_B. -/
  portB : Nat
  /-- R23: CFG.T_INACT. -/
  tInact : Int
  /-- R21: ACC. -/
  acc : Nat
  /-- R22: LAT. -/
  lat : Int
  /-- R24: SUBS. -/
  subs : List Nat
  /-- R25: OUT. -/
  out : List OutEvent
  /-- R26: FAULT. -/
  fault : FaultReg
  /-- R31: NOW. -/
  now : Nat
  /-- R32: PCNT. -/
  pcnt : Nat
  /-- R33: P0, true for a sample of 1. -/
  p0 : Bool
  /-- R33: P1. -/
  p1 : Bool
  /-- R34: OUT_RAW. -/
  outRaw : Nat
  /-- R34: OUT_STB. -/
  outStb : Bool
  /-- The model's own (log 8): the answer of the last codec query. -/
  reply : Option Reply
  /-- The model's own (log 5): how many free values have been drawn. -/
  draws : Nat
  /-- The model's own (log 7): the event sequence still to come (R18, R40). -/
  trace : List Input
  deriving DecidableEq, Repr

/-- No step of WFA stops with a fault: the spec's two faults are states (R193), which the meanings enter. So no
constructor raises one; the type is empty, and that is safe. -/
inductive Fault
  deriving DecidableEq, Repr

/-- Why a step is refused. -/
inductive Refusal where
  /-- Raised by an arm of exec whose instruction has no meaning yet; safe. No arm raises it now. -/
  | notModelled (mnemonic : String)
  /-- Raised by `step` for an event word of no operation: the trace is refused (R89, D34); safe. -/
  | reservedWord (why : Reserved)
  /-- Raised by SUBSCRIBE, EDGE (and its resolutions) and TICK before the first CREATE: such a trace is ill-formed and
  refused (R117, D36); safe. -/
  | beforeCreate
  /-- Raised by CREATE and CYCLE when the static parameters are outside the ranges of R7, R9 and R150: such a block is
  no instance of the spec (R161, I14, I22); safe. -/
  | outsideTheSpec
  deriving DecidableEq, Repr

/-- The static parameters of the reset state: the defaults of R7 where it gives one; ACC_W, MS, TS_W and F_CLK are
DESIGN CHOICEs (log 1). Statements over all states hold for every value of the parameters. -/
def defaultConfig : Config where
  accW := some 32
  ms := 1
  tInact := 500
  tPoll := 5
  tsW := 16
  fClk := 1000
  sameCycleOrder := .any
  isValidWide := .ignoreHigh

/-- R36: the state after `rst` in the pin-level binding, which is also that of CREATE with the binding's ports
(R150, R210, R212; log 2). LAT is the free value of draw 0 (R37). -/
def State.reset : State where
  par := defaultConfig
  created := true
  portA := 0
  portB := 1
  tInact := 500
  acc := 0
  lat := Config.latDraw 0 % 2 ^ 16
  subs := []
  out := []
  fault := .none
  now := 0
  pcnt := 4
  p0 := false
  p1 := false
  outRaw := 0
  outStb := false
  reply := none
  draws := 1
  trace := []

/-- R117 and 95_test_vectors.md section 3, "no block exists; the first event is CREATE": the start of an event trace,
before any CREATE (log 13). -/
def State.noBlock : State := { State.reset with created := false }

end Sys2Proof.Machine
end

