-- ==== Sys2Proof/Machine/Operands.lean ====
section
/-! DEFINITION. Values and operands: width reduction, slices, Hamming weight (spec/00_scope.md R11, R12, R14), the
ranges of the parameters (R7, R9, spec/42_cycle_binding.md R150), the arguments of CREATE, and the fields and groups
of a raw value (spec/30_encoding.md R73 to R76). -/

namespace Sys2Proof.Machine

/-- R12: `trunc(v)`. -/
def trunc (par : Config) (v : Nat) : Nat :=
  match par.accW with
  | none => v
  | some w => v % 2 ^ w

/-- R105, R106, R113(a): `(v << 1) | b`. -/
def shiftBit (v : Nat) (b : Bool) : Nat := (v <<< 1) ||| b.toNat

/-- R11: the `width` bits of `v` from bit `lo` up, `v[lo + width - 1 : lo]`. -/
def slice (v lo width : Nat) : BitVec width := BitVec.ofNat width (v >>> lo)

/-- R14 by halving, with as much fuel as the value itself. -/
def popcountAux : Nat → Nat → Nat
  | 0, _ => 0
  | fuel + 1, v => if v = 0 then 0 else v % 2 + popcountAux fuel (v / 2)

/-- R14: the Hamming weight of `v`. -/
def popcount (v : Nat) : Nat := popcountAux v v

/-! ### Parameters -/

/-- R7, R9: the ranges of the parameters every block has. -/
def configValid (par : Config) : Bool :=
  par.accW.all (fun w => decide (26 ≤ w)) && decide (1 ≤ par.ms) && decide (1 ≤ par.tPoll)

/-- R150, R7: what the pin-level binding needs besides: a finite ACC_W, a wide enough TS_W, a clock of whole TU per
millisecond. A static T_INACT of 0 is no error of the parameters but a ConfigurationError (R161). -/
def bindingValid (par : Config) : Bool :=
  configValid par && par.accW.isSome && decide (par.tInact + par.tPoll < 2 ^ par.tsW) &&
    decide (par.fClk = 1000 * par.ms)

/-! ### The arguments of CREATE (R101) -/

/-- R101: the timeout, or the default `500 * MS` when it is omitted. -/
def timeoutArg (par : Config) (timeout : Option Int) : Int :=
  match timeout with
  | none => 500 * (par.ms : Int)
  | some t => t

/-- R101, R181, R192: the first cause of ConfigurationError that the arguments meet, in the order of the tests. -/
def createCause (par : Config) (src0 src1 : Option Nat) (timeout : Option Int) : Option ConfigCause :=
  if src0 = none then some .source0Absent
  else if src1 = none then some .source1Absent
  else if src0 = src1 then some .notDistinct
  else if timeoutArg par timeout ≤ 0 then some .timeoutNotPositive
  else none

/-! ### FAULT as the bits it reads as (R26, R184) -/

/-- R181: the number of a sub-cause. -/
def causeNumber : ConfigCause → Nat
  | .source0Absent => 1
  | .source1Absent => 2
  | .notDistinct => 3
  | .timeoutNotPositive => 4

/-- R184: FAULT.code. -/
def faultCode : FaultReg → BitVec 2
  | .none => 0b00
  | .configurationError _ => 0b01
  | .invalidPort _ => 0b10

/-- R26: FAULT.info. -/
def faultInfo : FaultReg → Nat
  | .none => 0
  | .configurationError cause => causeNumber cause
  | .invalidPort p => p

/-! ### The H10301 layout (R73 to R76) -/

/-- R132: bit 0. -/
def tpbOf (raw : Nat) : BitVec 1 := slice raw 0 1
/-- R133: bits 16:1. -/
def cnOf (raw : Nat) : BitVec 16 := slice raw 1 16
/-- R134: bits 24:17. -/
def fcOf (raw : Nat) : BitVec 8 := slice raw 17 8
/-- R135: bit 25. -/
def lpbOf (raw : Nat) : BitVec 1 := slice raw 25 1

/-- R75: the even-parity group, bits 25:13. -/
def evenGroup (raw : Nat) : BitVec 13 := slice raw 13 13
/-- R75: the odd-parity group, bits 12:0. -/
def oddGroup (raw : Nat) : BitVec 13 := slice raw 0 13

/-- R76: COMPOSE. -/
def compose (lpb : BitVec 1) (fc : BitVec 8) (cn : BitVec 16) (tpb : BitVec 1) : Nat :=
  (lpb.toNat <<< 25) ||| (fc.toNat <<< 17) ||| (cn.toNat <<< 1) ||| tpb.toNat

/-- R76: the leading parity bit of a valid card. -/
def validLpb (fc : BitVec 8) (cn : BitVec 16) : BitVec 1 :=
  BitVec.ofNat 1 (popcount ((fc.toNat <<< 4) ||| (cn.toNat >>> 12)) % 2)

/-- R76: the trailing parity bit of a valid card. -/
def validTpb (cn : BitVec 16) : BitVec 1 :=
  BitVec.ofNat 1 (1 - popcount (cn.toNat &&& 0xFFF) % 2)

end Sys2Proof.Machine
end

