-- ==== Sys2Proof/Machine/Flags.lean ====
section
/-! DEFINITION. Predicates and conditions computed from the state: IDLE, EXPIRED, FIRE, HALTED (spec/10_state.md R27),
the control state (R28), card validity (spec/41_card_codec.md R136, R138), and the conditions of a clock cycle
(spec/42_cycle_binding.md R154, R156, R162). None of them is stored. -/

namespace Sys2Proof.Machine

/-- R27: IDLE. -/
def idle (s : State) : Bool := decide (s.acc = 0)

/-- R27: EXPIRED(now), strict and exact in the integers (R13). -/
def expired (s : State) (now : Int) : Bool := decide (now - s.lat > s.tInact)

/-- R27: FIRE(now). -/
def fire (s : State) (now : Int) : Bool := !idle s && expired s now

/-- R27: HALTED. -/
def halted (s : State) : Bool := decide (s.fault ≠ .none)

/-- R28: ST is a function of ACC. -/
def controlState (s : State) : ControlState := if s.acc = 0 then .idle else .collect

/-! ### Parity (R14, R136, R138) -/

def evenWeight (v : Nat) : Bool := decide (popcount v % 2 = 0)

def oddWeight (v : Nat) : Bool := decide (popcount v % 2 = 1)

/-- R136, on the 26 low bits. -/
def groupsValid (raw : Nat) : Bool := evenWeight (evenGroup raw).toNat && oddWeight (oddGroup raw).toNat

/-- R138: ISVALID under each value of ISVALID_WIDE. -/
def isValidOf (wide : IsValidWide) (raw : Nat) : Bool :=
  match wide with
  | .ignoreHigh => groupsValid raw
  | .falseIfHigh => decide (raw < 2 ^ 26) && groupsValid raw
  | .upperUnmasked => evenWeight (raw >>> 13) && oddWeight (oddGroup raw).toNat

/-! ### A clock cycle -/

/-- R154: `e0`, line A sampled low after high. -/
def fell0 (s : State) (d0n : Bool) : Bool := s.p0 && !d0n

/-- R154: `e1`. -/
def fell1 (s : State) (d1n : Bool) : Bool := s.p1 && !d1n

/-- R156: `tk`. -/
def tickDue (s : State) : Bool := decide (s.pcnt = 0)

/-- R162: EXPIRED in the binding, a subtraction modulo 2^TS_W. -/
def expiredMod (s : State) : Bool := decide (((s.now : Int) - s.lat) % 2 ^ s.par.tsW > s.tInact)

/-- R157, R162: the condition on which the TICK of a cycle finalizes. -/
def fireMod (s : State) : Bool := !idle s && expiredMod s

end Sys2Proof.Machine
end

