-- ==== Sys2Proof/Machine/Ops.lean ====
section
/-! DEFINITION. The named operations on the state: fetching the next operation of the trace, the guard of R117, the
writes of an edge (spec/40_frame_decoder.md R105, R106), finalize (R110), taking a fault (spec/60_exceptions.md R193)
and leaving it by a fresh block (R195, spec/70_reset_and_hazards.md R210, R214). -/

namespace Sys2Proof.Machine

/-- What a step answers. -/
abbrev Outcome := Host.Outcome State Fault Refusal

/-- R40: take the next element of the event sequence: its decoding and the state without it; `none` when nothing has
arrived. -/
def fetch (s : State) : Option (Except Reserved Instr × State) :=
  match s.trace with
  | [] => none
  | input :: rest => some (decodeInput input, { s with trace := rest })

/-- R117, R100: an operation of the frame decoder other than CREATE. Before the first CREATE the trace is refused,
while halted nothing changes, otherwise `write` is the whole effect. -/
def whenLive (s : State) (write : State → State) : Outcome :=
  if !s.created then .refused .beforeCreate
  else if halted s then .next s
  else .next (write s)

/-! ### Subscribers, edges and finalize -/

/-- R102: SUBS <- SUBS ++ [h]. -/
def addSub (h : Nat) (s : State) : State := { s with subs := s.subs ++ [h] }

/-- R105, R106: ACC <- trunc((ACC << 1) | b) and LAT <- t, together. -/
def shiftIn (b : Bool) (t : Int) (s : State) : State :=
  { s with acc := trunc s.par (shiftBit s.acc b), lat := t }

/-- R17, R25: EMIT(raw). -/
def emit (raw : Nat) (s : State) : State := { s with out := s.out ++ [{ raw := raw, subs := s.subs }] }

/-- R110: snapshot, emit and clear as one transition. -/
def finalize (s : State) : State := { emit s.acc s with acc := 0 }

/-- R108: the poll tick, with its branches R109 and R110. -/
def pollTick (now : Int) (s : State) : State := if fire s now then finalize s else s

/-! ### Faults (R193: write FAULT, and be halted) -/

/-- R182: InvalidPortError. -/
def raiseInvalidPort (p : Nat) (s : State) : State := { s with fault := .invalidPort p }

/-- R181: ConfigurationError, the state that stands for "no decoder": FAULT, no subscriber, no output. The CREATE has
been applied, so what follows is ignored and not refused (V4; log 12). -/
def raiseConfiguration (cause : ConfigCause) (s : State) : State :=
  { s with created := true, fault := .configurationError cause, subs := [], out := [] }

/-- R104: one edge notification, resolved by equality of identifiers only. -/
def edgeOn (p : Nat) (t : Int) (s : State) : State :=
  if p = s.portA then shiftIn false t s
  else if p = s.portB then shiftIn true t s
  else raiseInvalidPort p s

/-! ### The fresh block (R36, R195, R214) -/

/-- R36: every register at its reset value, with CFG and LAT given. The parameters, the answer of the last query and
the input still to come are not the block's. -/
def freshBlock (a b : Nat) (timeout : Int) (lat : Int) (s : State) : State :=
  { s with
    created := true, portA := a, portB := b, tInact := timeout, acc := 0, lat := lat, subs := [], out := []
    fault := .none, now := 0, pcnt := s.par.tPoll - 1, p0 := false, p1 := false, outRaw := 0, outStb := false }

/-- R37: a draw of the value LAT has after reset. -/
def drawLat (s : State) : Int := Config.latDraw s.draws

/-- A free value has been used: the next one is another. -/
def countDraw (s : State) : State := { s with draws := s.draws + 1 }

end Sys2Proof.Machine
end

