-- ==== Sys2Proof/Machine/Binding.lean ====
section
/-! DEFINITION. The pin-level binding (spec/42_cycle_binding.md): the clock cycle and the output ports. -/

namespace Sys2Proof.Machine

/-! ### Reset (R152, R161) -/

/-- R161: of the causes of ConfigurationError only a static T_INACT of 0 can arise. -/
def resetFault (par : Config) : FaultReg :=
  if par.tInact = 0 then .configurationError .timeoutNotPositive else .none

/-- R152: rst = 1, every register at its reset value: a CREATE with the ports of R150 and the static timeout (R212).
LAT is any value of TS_W bits (R37). The static T_INACT goes into CFG.T_INACT also when it is the illegal 0, where R23 and
R152 leave its value open: DESIGN CHOICE (log 27). -/
def resetCycle (s : State) : State :=
  { countDraw (freshBlock 0x00 0x01 (s.par.tInact : Int) (drawLat s % 2 ^ s.par.tsW) s) with
    fault := resetFault s.par }

/-! ### The events of a cycle (R157, R164) -/

/-- R164: an order of the three possible events. -/
def slotList : SlotOrder → List CycleEvent
  | .o01T => [.edge0, .edge1, .tick]
  | .o10T => [.edge1, .edge0, .tick]
  | .o0T1 => [.edge0, .tick, .edge1]
  | .o1T0 => [.edge1, .tick, .edge0]
  | .oT01 => [.tick, .edge0, .edge1]
  | .oT10 => [.tick, .edge1, .edge0]

/-- R164: the order SAME_CYCLE_ORDER gives; under `any` a free draw. -/
def slotOrder (s : State) : SlotOrder :=
  match s.par.sameCycleOrder with
  | .edgesFirst => .o01T
  | .tickFirst => .oT01
  | .any => Config.orderDraw s.draws

/-- Whether an event is one of the cycle's. -/
def present (e0 e1 tk : Bool) : CycleEvent → Bool
  | .edge0 => e0
  | .edge1 => e1
  | .tick => tk

/-- More than one event falls in the cycle, so their order is to be chosen. -/
def contended (e0 e1 tk : Bool) : Bool := (e0 && e1) || (e0 && tk) || (e1 && tk)

/-- R157: `E` in the order of application. The order is consulted only where there is more than one event. -/
def cycleEvents (s : State) (d1n d0n : Bool) : List CycleEvent :=
  let e0 := fell0 s d0n
  let e1 := fell1 s d1n
  let tk := tickDue s
  (slotList (if contended e0 e1 tk then slotOrder s else .o01T)).filter (present e0 e1 tk)

/-- The order of this cycle was a free draw. -/
def orderDrawn (s : State) (d1n d0n : Bool) : Bool :=
  contended (fell0 s d0n) (fell1 s d1n) (tickDue s) && decide (s.par.sameCycleOrder = .any)

/-- R157: the finalize of a cycle, which also loads the output registers (R158). -/
def finalizeToPins (s : State) : State := { finalize s with outRaw := s.acc, outStb := true }

/-- R157: one event of a cycle, with NOW as its time, TICK by the comparison of R162. -/
def applyCycleEvent (s : State) : CycleEvent → State
  | .edge0 => shiftIn false s.now s
  | .edge1 => shiftIn true s.now s
  | .tick => if fireMod s then finalizeToPins s else s

/-- R157: NOW, PCNT, P0 and P1 at the end of the cycle. -/
def advance (d1n d0n : Bool) (s : State) : State :=
  { s with
    p0 := d0n, p1 := d1n
    now := (s.now + 1) % 2 ^ s.par.tsW
    pcnt := if tickDue s then s.par.tPoll - 1 else s.pcnt - 1 }

/-- OUT_STB <- 0, unless an event of the cycle sets it (R157). -/
def clearStrobe (s : State) : State := { s with outStb := false }

/-- R157: the events of a cycle applied one after another, the strobe being 0 unless one of them sets it. -/
def cycleApplied (d1n d0n : Bool) (s : State) : State :=
  (cycleEvents s d1n d0n).foldl applyCycleEvent (clearStrobe s)

/-- R157: a cycle with rst = 0 of a block that is not halted. -/
def liveCycle (d1n d0n : Bool) (s : State) : State :=
  let after := cycleApplied d1n d0n s
  advance d1n d0n (if orderDrawn s d1n d0n then countDraw after else after)

/-- R157: CYCLE. Parameters for which the binding does not exist are refused (R150, R161, I14, I22; log 14). -/
def execCycle (rst d1n d0n : Bool) (s : State) : Outcome :=
  if !bindingValid s.par then .refused .outsideTheSpec
  else if rst then .next (resetCycle s)
  else if halted s then .next (clearStrobe s)
  else .next (liveCycle d1n d0n s)

/-! ### The output ports (R151, R158 to R160) -/

/-- R151: the values on the output pins, functions of the output registers and of FAULT. -/
def pins (s : State) : OutputPins where
  cardStb := s.outStb
  cardRaw := s.outRaw
  lpb := lpbOf s.outRaw
  fc := fcOf s.outRaw
  cn := cnOf s.outRaw
  tpb := tpbOf s.outRaw
  ok := isValidOf s.par.isValidWide s.outRaw
  fault := faultCode s.fault

end Sys2Proof.Machine
end

