-- ==== Sys2Proof/Machine/Codec.lean ====
section
/-! DEFINITION. The codec operations (spec/41_card_codec.md). Each is defined for every raw value, in every state, and
writes only the answer handed to the host (R130, R88; log 8). -/

namespace Sys2Proof.Machine

/-- The answer of a query; nothing else is written (R130). -/
def answer (r : Reply) (s : State) : Outcome := .next { s with reply := some r }

/-- R131: the CardData of a raw value, unmasked. -/
def fromRaw (raw : Nat) : CardData := { raw := raw }

/-- R137: the rendering of the five items in the order of the rule. -/
def rendering (wide : IsValidWide) (raw : Nat) : String :=
  Config.render (lpbOf raw) (fcOf raw) (cnOf raw) (tpbOf raw) (isValidOf wide raw)

/-- R120: the calls of one decoded-card event, first registered first, each with the same CardData. -/
def deliveries (e : OutEvent) : List (Nat × CardData) := e.subs.map fun h => (h, fromRaw e.raw)

/-- R131: FROMRAW. -/
def execFromraw (raw : Nat) (s : State) : Outcome := answer (.cardData (fromRaw raw)) s

/-- R135: LPB. -/
def execLpb (raw : Nat) (s : State) : Outcome := answer (.lpb (lpbOf raw)) s

/-- R134: FC. -/
def execFc (raw : Nat) (s : State) : Outcome := answer (.fc (fcOf raw)) s

/-- R133: CN. -/
def execCn (raw : Nat) (s : State) : Outcome := answer (.cn (cnOf raw)) s

/-- R132: TPB. -/
def execTpb (raw : Nat) (s : State) : Outcome := answer (.tpb (tpbOf raw)) s

/-- R136, R138: ISVALID, with the instance's reading of values of more than 26 bits. -/
def execIsvalid (raw : Nat) (s : State) : Outcome := answer (.isValid (isValidOf s.par.isValidWide raw)) s

/-- R137: TOSTRING. -/
def execTostring (raw : Nat) (s : State) : Outcome := answer (.text (rendering s.par.isValidWide raw)) s

end Sys2Proof.Machine
end

