-- ==== Sys2Proof/Machine/FrameDecoder.lean ====
section
/-! DEFINITION. The frame decoder operations (spec/40_frame_decoder.md). -/

namespace Sys2Proof.Machine

/-- R101: CREATE, on any block or none (R214). Parameters outside the spec's ranges are refused (I22; log 14). -/
def execCreate (src0 src1 : Option Nat) (timeout : Option Int) (s : State) : Outcome :=
  if !configValid s.par then .refused .outsideTheSpec
  else match createCause s.par src0 src1 timeout with
    | some cause => .next (raiseConfiguration cause s)
    | none =>
      .next (countDraw (freshBlock (src0.getD 0) (src1.getD 0) (timeoutArg s.par timeout) (drawLat s) s))

/-- R102: SUBSCRIBE. -/
def execSubscribe (h : Nat) (s : State) : Outcome := whenLive s (addSub h)

/-- R103: NOP, allowed anywhere (R117). -/
def execNop (s : State) : Outcome := .next s

/-- R104: EDGE. -/
def execEdge (p : Nat) (t : Int) (s : State) : Outcome := whenLive s (edgeOn p t)

/-- R105: EDGE0. -/
def execEdge0 (t : Int) (s : State) : Outcome := whenLive s (shiftIn false t)

/-- R106: EDGE1. -/
def execEdge1 (t : Int) (s : State) : Outcome := whenLive s (shiftIn true t)

/-- R107: EDGEX. -/
def execEdgex (p : Nat) (_t : Int) (s : State) : Outcome := whenLive s (raiseInvalidPort p)

/-- R108: TICK, idle (R109) or finalize (R110). -/
def execTick (now : Int) (s : State) : Outcome := whenLive s (pollTick now)

end Sys2Proof.Machine
end

