-- ==== Sys2Proof/Machine/Dispatch.lean ====
section
/-! DEFINITION. The meaning of every operation, one arm each (spec/30_encoding.md R80). -/

namespace Sys2Proof.Machine

def exec (i : Instr) (s : State) : Host.Outcome State Fault Refusal :=
  match i with
  | .create src0 src1 timeout => Sys2Proof.Machine.execCreate src0 src1 timeout s
  | .subscribe h => Sys2Proof.Machine.execSubscribe h s
  | .nop => Sys2Proof.Machine.execNop s
  | .edge p t => Sys2Proof.Machine.execEdge p t s
  | .edge0 t => Sys2Proof.Machine.execEdge0 t s
  | .edge1 t => Sys2Proof.Machine.execEdge1 t s
  | .edgex p t => Sys2Proof.Machine.execEdgex p t s
  | .tick now => Sys2Proof.Machine.execTick now s
  | .fromraw raw => Sys2Proof.Machine.execFromraw raw s
  | .lpb raw => Sys2Proof.Machine.execLpb raw s
  | .fc raw => Sys2Proof.Machine.execFc raw s
  | .cn raw => Sys2Proof.Machine.execCn raw s
  | .tpb raw => Sys2Proof.Machine.execTpb raw s
  | .isvalid raw => Sys2Proof.Machine.execIsvalid raw s
  | .tostring raw => Sys2Proof.Machine.execTostring raw s
  | .cycle rst d1n d0n => Sys2Proof.Machine.execCycle rst d1n d0n s

end Sys2Proof.Machine
end

