-- ==== Sys2Proof/Machine/Step.lean ====
section
/-! DEFINITION. One step: the next operation of the event sequence is taken and applied (spec/00_scope.md R18). -/

namespace Sys2Proof.Machine

/-- R18, R56: apply the next operation of the trace. A reserved word refuses the trace (R89). With nothing arrived the
block waits: it "does nothing until an event arrives" (R210). -/
def step (s : State) : Host.Outcome State Fault Refusal :=
  match fetch s with
  | none => .next s
  | some (.error why, _) => .refused (.reservedWord why)
  | some (.ok i, rest) => exec i rest

/-- The state with the instruction `w` of `nbits` bits, in the table's numbering, as the next element of the trace. -/
def State.withFetchWord (s : State) (nbits w : Nat) : State :=
  match codeOfTable nbits w with
  | none => s
  | some c => { s with trace := .code c :: s.trace }

end Sys2Proof.Machine
end

