-- ==== Sys2Proof/Machine/Assembly.lean ====
section
/-! DEFINITION. The trace assembly and its pseudo-instructions (spec/30_encoding.md R92 to R94): text to lines, lines to
the operations of a trace. Text is a list of characters. -/

namespace Sys2Proof.Machine

/-- R92, R93, R94: one line of a trace. -/
inductive AsmLine where
  /-- a line of R92, or a pin vector of R94 -/
  | op (i : Instr)
  /-- `A @<t>` -/
  | lineA (t : Int)
  /-- `B @<t>` -/
  | lineB (t : Int)
  /-- `FRAME <bits> @<t0> +<dt>`, the leftmost bit first -/
  | frame (bits : List Bool) (t0 dt : Int)
  /-- `CARD fc=<fc> cn=<cn> @<t0> +<dt>` -/
  | card (fc : BitVec 8) (cn : BitVec 16) (t0 dt : Int)
  /-- `TICKS @<t0> +<dt> x<n>` -/
  | ticks (t0 dt : Int) (n : Nat)
  deriving DecidableEq, Repr

/-! ### Expansion (R93) -/

/-- R93, FRAME: bit `i` falls at `t0 + i * dt`, on line `a` for 0 and on line `b` for 1. -/
def frameEdges (a b : Nat) (dt : Int) : List Bool → Int → List Instr
  | [], _ => []
  | bit :: bits, t => .edge (if bit then b else a) t :: frameEdges a b dt bits (t + dt)

/-- R93, CARD: the 26-digit numeral of a raw value, most significant digit first. -/
def cardBits (raw : Nat) : List Bool := (List.range 26).map fun k => raw.testBit (25 - k)

/-- R93, R76: the raw value of the valid card with these numbers. -/
def validCard (fc : BitVec 8) (cn : BitVec 16) : Nat := compose (validLpb fc cn) fc cn (validTpb cn)

/-- R93, TICKS. -/
def tickTrain (dt : Int) : Nat → Int → List Instr
  | 0, _ => []
  | n + 1, t => .tick t :: tickTrain dt n (t + dt)

/-- R93: the operations of one line, where the registered lines are `a` and `b`. -/
def expandLine (a b : Nat) : AsmLine → List Instr
  | .op i => [i]
  | .lineA t => [.edge a t]
  | .lineB t => [.edge b t]
  | .frame bits t0 dt => frameEdges a b dt bits t0
  | .card fc cn t0 dt => frameEdges a b dt (cardBits (validCard fc cn)) t0
  | .ticks t0 dt n => tickTrain dt n t0

/-- R93: the lines whose expansion needs the ports of a preceding CREATE. -/
def needsPorts : AsmLine → Bool
  | .op _ => false
  | .lineA _ => true
  | .lineB _ => true
  | .frame _ _ _ => true
  | .card _ _ _ _ => true
  | .ticks _ _ _ => false

/-- The ports registered after an operation: those of the last successful CREATE (R101). -/
def portsAfter (par : Config) (ports : Option (Nat × Nat)) : Instr → Option (Nat × Nat)
  | .create (some a) (some b) timeout =>
    if createCause par (some a) (some b) timeout = none then some (a, b) else ports
  | _ => ports

/-- R93: the operations of a trace; `none` where a line needs a CREATE that does not precede it. -/
def assembleLines (par : Config) : Option (Nat × Nat) → List AsmLine → Option (List Instr)
  | _, [] => some []
  | ports, line :: lines =>
    if needsPorts line && ports.isNone then none
    else
      let here := expandLine (ports.getD (0, 0)).1 (ports.getD (0, 0)).2 line
      (assembleLines par (here.foldl (portsAfter par) ports) lines).map (here ++ ·)

/-! ### Numbers (R92) -/

def digitValue (c : Char) : Option Nat :=
  if '0' ≤ c ∧ c ≤ '9' then some (c.toNat - '0'.toNat)
  else if 'a' ≤ c ∧ c ≤ 'f' then some (c.toNat - 'a'.toNat + 10)
  else if 'A' ≤ c ∧ c ≤ 'F' then some (c.toNat - 'A'.toNat + 10)
  else none

/-- Digits of a base, `_` separating them; at least one digit. -/
def readDigits (base : Nat) : Option Nat → List Char → Option Nat
  | read, [] => read
  | read, c :: cs =>
    if c = '_' then readDigits base read cs
    else match digitValue c with
      | none => none
      | some d => if d < base then readDigits base (some (read.getD 0 * base + d)) cs else none

/-- R92: decimal, or hexadecimal with `0x`, or binary with `0b`. -/
def readNumber : List Char → Option Nat
  | '0' :: 'x' :: cs => readDigits 16 none cs
  | '0' :: 'b' :: cs => readDigits 2 none cs
  | cs => readDigits 10 none cs

/-- R92, `timeout=<int>`: a number, which may carry a minus sign (R86, V1). -/
def readInteger : List Char → Option Int
  | '-' :: cs => (readNumber cs).map fun n => -(n : Int)
  | cs => (readNumber cs).map fun n => (n : Int)

def readBits : List Char → Option (List Bool)
  | [] => some []
  | '0' :: cs => (readBits cs).map (false :: ·)
  | '1' :: cs => (readBits cs).map (true :: ·)
  | _ => none

/-! ### Lines (R92) -/

/-- The text after a leading key such as `p=` or `@`. -/
def afterKey : List Char → List Char → Option (List Char)
  | [], cs => some cs
  | k :: key, c :: cs => if k = c then afterKey key cs else none
  | _ :: _, [] => none

/-- A number after a leading key. -/
def keyed (key : String) (tok : List Char) : Option Nat := (afterKey key.toList tok).bind readNumber

/-- `@<t>` and `+<dt>`: a time in TU. -/
def keyedTime (key : String) (tok : List Char) : Option Int := (keyed key tok).map fun n => (n : Int)

/-- A value below a bound. -/
def below (bound : Nat) (n : Option Nat) : Option Nat := n.filter (fun k => decide (k < bound))

/-- An operand that may be left out, from the front of the tokens. -/
def optionalOperand {α : Type} (read : List Char → Option α) : List (List Char) → Option α × List (List Char)
  | [] => (none, [])
  | tok :: toks =>
    match read tok with
    | some x => (some x, toks)
    | none => (none, tok :: toks)

/-- R92: `CREATE a=<pid> b=<pid> [timeout=<int>]`; a source left out is absent. -/
def readCreate (toks : List (List Char)) : Option Instr :=
  let (src0, rest0) := optionalOperand (keyed "a=") toks
  let (src1, rest1) := optionalOperand (keyed "b=") rest0
  let (timeout, rest2) := optionalOperand (fun tok => (afterKey "timeout=".toList tok).bind readInteger) rest1
  if rest2 = [] then some (.create src0 src1 timeout) else none

/-- R92: the codec query a mnemonic names. -/
def queryOf (name : List Char) : Option (Nat → Instr) :=
  if name = "FROMRAW".toList then some .fromraw
  else if name = "LPB".toList then some .lpb
  else if name = "FC".toList then some .fc
  else if name = "CN".toList then some .cn
  else if name = "TPB".toList then some .tpb
  else if name = "ISVALID".toList then some .isvalid
  else if name = "TOSTRING".toList then some .tostring
  else none

/-- R94: a line of a cycle trace, the vector rst, d1_n, d0_n. -/
def pinLine : List Bool → Option Instr
  | [rst, d1n, d0n] => some (.cycle rst d1n d0n)
  | _ => none

/-- R92 to R94, by the number of operands. -/
def readLine : List (List Char) → Option AsmLine
  | [] => none
  | [name] =>
    if name = "NOP".toList then some (.op .nop)
    else if name = "CREATE".toList then (readCreate []).map .op
    else ((readBits name).bind pinLine).map .op
  | [name, x] =>
    if name = "CREATE".toList then (readCreate [x]).map .op
    else if name = "SUB".toList then (readNumber x).map fun h => .op (.subscribe h)
    else if name = "TICK".toList then (keyedTime "@" x).map fun t => .op (.tick t)
    else if name = "A".toList then (keyedTime "@" x).map .lineA
    else if name = "B".toList then (keyedTime "@" x).map .lineB
    else match queryOf name, readNumber x with
      | some query, some raw => some (.op (query raw))
      | _, _ => none
  | [name, x, y] =>
    if name = "CREATE".toList then (readCreate [x, y]).map .op
    else if name = "EDGE".toList then
      match keyed "p=" x, keyedTime "@" y with
      | some p, some t => some (.op (.edge p t))
      | _, _ => none
    else none
  | [name, x, y, z] =>
    if name = "CREATE".toList then (readCreate [x, y, z]).map .op
    else if name = "FRAME".toList then
      match readBits x, keyedTime "@" y, keyedTime "+" z with
      | some bits, some t0, some dt => some (.frame bits t0 dt)
      | _, _, _ => none
    else if name = "TICKS".toList then
      match keyedTime "@" x, keyedTime "+" y, keyed "x" z with
      | some t0, some dt, some n => some (.ticks t0 dt n)
      | _, _, _ => none
    else none
  | [name, x, y, z, u] =>
    if name = "CARD".toList then
      match below (2 ^ 8) (keyed "fc=" x), below (2 ^ 16) (keyed "cn=" y), keyedTime "@" z, keyedTime "+" u with
      | some fc, some cn, some t0, some dt => some (.card (BitVec.ofNat 8 fc) (BitVec.ofNat 16 cn) t0 dt)
      | _, _, _, _ => none
    else none
  | _ => none

/-! ### Text (R92) -/

/-- A finished token, if it has a character. -/
def flush (tok : List Char) : List (List Char) := if tok = [] then [] else [tok]

/-- The tokens of one line, spaces and tabs between them, up to the comment sign. -/
def tokens : List Char → List Char → List (List Char)
  | tok, [] => flush tok
  | tok, c :: cs =>
    if c = ';' then flush tok
    else if c = ' ' ∨ c = '\t' then flush tok ++ tokens [] cs
    else tokens (tok ++ [c]) cs

/-- The lines of a text. -/
def textLines : List Char → List Char → List (List Char)
  | line, [] => [line]
  | line, c :: cs => if c = '\n' then line :: textLines [] cs else textLines (line ++ [c]) cs

/-- R92: one operation a line; a line with no token says nothing; `none` where a line is none of R92 to R94. -/
def readLines : List (List Char) → Option (List AsmLine)
  | [] => some []
  | line :: lines =>
    match tokens [] line with
    | [] => readLines lines
    | toks =>
      match readLine toks, readLines lines with
      | some l, some ls => some (l :: ls)
      | _, _ => none

/-- R92, R93: a text as the operations of a trace. -/
def assembleText (par : Config) (text : String) : Option (List Instr) :=
  (readLines (textLines [] text.toList)).bind (assembleLines par none)

end Sys2Proof.Machine
end

