-- ==== Sys2Proof/Safety.lean ====
section
/-! DEFINITION. The terms claims use: runs of events (spec/00_scope.md R18, spec/70_reset_and_hazards.md R215), the
invariants of every reachable state (spec/10_state.md R41), the agents (spec/60_exceptions.md R196), the premises on
the environment (spec/70_reset_and_hazards.md R222 to R229), and the event sequence of a run of the binding
(spec/42_cycle_binding.md R163). -/

namespace Sys2Proof.Safety

open Sys2Proof.Machine

/-! ### Runs -/

/-- R18: the events of a run, applied one after another, up to the first that is refused. -/
def runEvents : List Instr → State → Outcome
  | [], s => .next s
  | i :: rest, s =>
    match exec i s with
    | .next s' => runEvents rest s'
    | .fault r => .fault r
    | .refused r => .refused r

/-- R117, R27: a block that exists and is not halted. -/
def live (s : State) : Bool := s.created && !halted s

/-- R117: the operations that need a created block and do nothing to a halted one: SUBSCRIBE, EDGE with its resolutions,
and TICK. -/
def decoderEvent : Instr → Bool
  | .create _ _ _ => false
  | .subscribe _ => true
  | .nop => false
  | .edge _ _ => true
  | .edge0 _ => true
  | .edge1 _ => true
  | .edgex _ _ => true
  | .tick _ => true
  | .fromraw _ => false
  | .lpb _ => false
  | .fc _ => false
  | .cn _ => false
  | .tpb _ => false
  | .isvalid _ => false
  | .tostring _ => false
  | .cycle _ _ _ => false

/-- R130: the operations of the codec. -/
def codecQuery : Instr → Bool
  | .create _ _ _ => false
  | .subscribe _ => false
  | .nop => false
  | .edge _ _ => false
  | .edge0 _ => false
  | .edge1 _ => false
  | .edgex _ _ => false
  | .tick _ => false
  | .fromraw _ => true
  | .lpb _ => true
  | .fc _ => true
  | .cn _ => true
  | .tpb _ => true
  | .isvalid _ => true
  | .tostring _ => true
  | .cycle _ _ _ => false

/-! ### Invariants -/

/-- R21, R34: a value that a register of ACC_W bits holds. -/
def fitsAcc (par : Config) (v : Nat) : Prop :=
  match par.accW with
  | none => True
  | some w => v < 2 ^ w

/-- R20, R26, R34, R41: what holds in every reachable state of an instance of the spec. -/
structure Inv (s : State) : Prop where
  /-- R7, R9: the parameters are in their ranges. -/
  params : configValid s.par = true
  /-- R41(a). -/
  acc : fitsAcc s.par s.acc
  /-- R20: OUT_RAW has ACC_W bits. -/
  outRaw : fitsAcc s.par s.outRaw
  /-- R20: NOW has TS_W bits. -/
  now : s.now < 2 ^ s.par.tsW
  /-- R20: PCNT is 0 .. T_POLL - 1. -/
  pcnt : s.pcnt < s.par.tPoll
  /-- R23: an illegal configuration is never that of a running block. -/
  config : live s = true → s.portA ≠ s.portB ∧ 0 < s.tInact
  /-- R41(c): every raw value in OUT is nonzero. -/
  outNonzero : ∀ e ∈ s.out, e.raw ≠ 0
  /-- R158, R41(c): a strobe shows the raw value of a finalize. -/
  strobe : s.outStb = true → s.outRaw ≠ 0
  /-- R193: only a created block has taken a fault. -/
  uncreated : s.created = false → s.fault = .none
  /-- R181: no decoder, so no subscriber and no output. -/
  noDecoder : ∀ cause, s.fault = .configurationError cause → s.subs = [] ∧ s.out = []

/-! ### Agents (R196) -/

inductive Agent where
  | irqA
  | irqB
  | poller
  | host
  deriving DecidableEq, Repr

/-- R196: whose step an operation is; a NOP and a CYCLE are no agent's. -/
def agentOf (s : State) : Instr → Option Agent
  | .create _ _ _ => some .host
  | .subscribe _ => some .host
  | .nop => none
  | .edge p _ => if p = s.portA then some .irqA else if p = s.portB then some .irqB else some .host
  | .edge0 _ => some .irqA
  | .edge1 _ => some .irqB
  | .edgex _ _ => some .host
  | .tick _ => some .poller
  | .fromraw _ => some .host
  | .lpb _ => some .host
  | .fc _ => some .host
  | .cn _ => some .host
  | .tpb _ => some .host
  | .isvalid _ => some .host
  | .tostring _ => some .host
  | .cycle _ _ _ => none

/-! ### Premises on the environment -/

/-- R222: the time an event carries. -/
def eventTime : Instr → Option Int
  | .edge _ t => some t
  | .edge0 t => some t
  | .edge1 t => some t
  | .edgex _ t => some t
  | .tick now => some now
  | _ => none

/-- R222: MONO, over the events of a run. -/
def Mono (events : List Instr) : Prop := (events.filterMap eventTime).Pairwise (· ≤ ·)

/-- R229, R190: TICK-PACE. The ticks never cease: there is a tick of every number, with the time `ticks k`. Successive
ticks are at least T_POLL apart; T_POLL being positive (R7), their times do not decrease. Nothing bounds the first. -/
def TickPace (tPoll : Int) (ticks : Nat → Int) : Prop := ∀ k, tPoll ≤ ticks (k + 1) - ticks k

/-- R229: the bound P_MAX of latency claims, on the distance between successive ticks, and between the CREATE (or the
tick that goes before) at `start` and the first of these ticks. There is no lower bound on the latter. -/
structure TickBound (pMax start : Int) (ticks : Nat → Int) : Prop where
  first : ticks 0 - start ≤ pMax
  next : ∀ k, ticks (k + 1) - ticks k ≤ pMax

/-- The first `n` ticks. -/
def firstTicks (ticks : Nat → Int) (n : Nat) : List Instr := (List.range n).map fun k => .tick (ticks k)

/-- R224: BIT-GAP, over the times of the pulses of one frame. -/
def BitGap (tInact : Int) : List Int → Prop
  | [] => True
  | [_] => True
  | t :: u :: rest => u - t ≤ tInact ∧ BitGap tInact (u :: rest)

/-- R225: FRAME-GAP, between the last pulse of one frame and the first of the next. -/
def FrameGap (tInact pMax lastPulse firstPulse : Int) : Prop := firstPulse - lastPulse > tInact + pMax

/-! ### Sequences of edges and ticks -/

/-- One pulse: its bit and its time. -/
abbrev Pulse := Bool × Int

/-- R70: the edge notification of a pulse in a block whose lines are `a` and `b`. -/
def pulseEdge (a b : Nat) (p : Pulse) : Instr := .edge (if p.1 then b else a) p.2

/-- R71, R114: the number a sequence of bits adds to `acc`, the first bit most significant. -/
def appendBits (acc : Nat) (bits : List Bool) : Nat := bits.foldl (fun v b => 2 * v + b.toNat) acc

/-- R105, R106: the value of ACC after edges with these bits, reduced at every shift (R12). -/
def shiftBits (par : Config) (acc : Nat) (bits : List Bool) : Nat :=
  bits.foldl (fun v b => trunc par (2 * v + b.toNat)) acc

/-- The time of the last EDGE, EDGE0 or EDGE1 of a sequence. -/
def lastEdgeTime : List Instr → Option Int
  | [] => none
  | i :: rest =>
    match lastEdgeTime rest with
    | some t => some t
    | none =>
      match i with
      | .edge _ t => some t
      | .edge0 t => some t
      | .edge1 t => some t
      | _ => none

/-- An operation that is an edge on line A or B or a tick, resolved. -/
def edgeOrTick : Instr → Bool
  | .edge0 _ => true
  | .edge1 _ => true
  | .tick _ => true
  | _ => false

/-- R104: EDGE0, EDGE1 and EDGEX, what an EDGE resolves to; they have no word of their own. -/
def resolvedEdge : Instr → Bool
  | .edge0 _ => true
  | .edge1 _ => true
  | .edgex _ _ => true
  | _ => false

/-- The bit a resolved edge shifts in. -/
def edgeBit : Instr → Option Bool
  | .edge0 _ => some false
  | .edge1 _ => some true
  | _ => none

/-! ### A run of the binding (R163) -/

/-- R163: the event of the event machine that an event of cycle `c` stands for, with the operand `C` instead of NOW. -/
def eventAt (c : Nat) : CycleEvent → Instr
  | .edge0 => .edge 0x00 (c : Int)
  | .edge1 => .edge 0x01 (c : Int)
  | .tick => .tick (c : Int)

/-- The cycles of a run with rst = 0, by the samples (d1_n, d0_n). -/
def cyclesOf (samples : List (Bool × Bool)) : List Instr := samples.map fun p => .cycle false p.1 p.2

/-- R163: the events of the cycles from cycle `c` on, in the order they were applied. -/
def bindingEvents : Nat → List (Bool × Bool) → State → List Instr
  | _, [], _ => []
  | c, (d1n, d0n) :: rest, s =>
    (cycleEvents s d1n d0n).map (eventAt c) ++ bindingEvents (c + 1) rest (liveCycle d1n d0n s)

/-- R163, R158: the values shown on card_raw in the cycles with card_stb = 1, in the cycle after each of these. -/
def shownRaws : List (Bool × Bool) → State → List Nat
  | [], _ => []
  | (d1n, d0n) :: rest, s =>
    let after := liveCycle d1n d0n s
    (if (pins after).cardStb then [(pins after).cardRaw] else []) ++ shownRaws rest after

/-- R154: the bits of the lines that fall in a cycle, the zero line first. -/
def fallingBits (s : State) (d1n d0n : Bool) : List Bool :=
  (if fell0 s d0n then [false] else []) ++ (if fell1 s d1n then [true] else [])

/-- R163, R162: the simulation relation between a block `b` of the binding at the start of cycle `c` since rst and a block
`e` of the event machine. `lat` is asked for at ACC = 0 too, where R37 leaves LAT open: at cycle 0 it rests on the draw
that rst and CREATE have in common (logs 3, 5). `out` rests on the OUT of a cycle (DEDUCED, log 10). -/
structure Simulates (c : Nat) (b e : State) : Prop where
  /-- R150, R161: the parameters are those of a binding, and its configuration is legal. -/
  params : bindingValid b.par = true
  legal : 0 < b.par.tInact
  par : e.par = b.par
  /-- R150: the event machine was created with the ports and the timeout of the binding. -/
  created : e.created = true
  portA : e.portA = 0x00
  portB : e.portB = 0x01
  timeout : e.tInact = (b.par.tInact : Int)
  timeoutB : b.tInact = (b.par.tInact : Int)
  /-- R163: no fault on either side. -/
  fault : e.fault = .none
  faultB : b.fault = .none
  /-- R163. -/
  acc : e.acc = b.acc
  lat : b.lat = e.lat % 2 ^ b.par.tsW
  out : e.out = b.out
  subs : e.subs = []
  subsB : b.subs = []
  /-- R155. -/
  now : b.now = c % 2 ^ b.par.tsW
  /-- R156. -/
  pcnt : b.pcnt = b.par.tPoll - 1 - c % b.par.tPoll
  /-- R162: while ACC ≠ 0 the last edge is not in the future, and at the next tick at most T_INACT + T_POLL old. -/
  recent : e.acc ≠ 0 → e.lat ≤ (c : Int) ∧ (c : Int) + b.pcnt - e.lat ≤ b.par.tInact + b.par.tPoll

/-- R156: the time of a tick. -/
def tickTime : Instr → Option Int
  | .tick now => some now
  | _ => none

end Sys2Proof.Safety
end

