-- ==== Sys2Proof/Certificates/Slice0/Obligations.lean ====
section
/-! DEFINITION. The statements for the provers. Each docstring names the rules of spec/ it formalises. A result written
as `next { s with … }` is the completion, the result and the frame in one: every field not named is unchanged. -/

section

open Sys2Proof Sys2Proof.Machine Sys2Proof.Safety

/-! ## Encoding -/

/-- R83 to R88: words written out from the spec's encodings decode to the operations they stand for. -/
def Obligations.SpecWordsDecode : Prop :=
  decodeWord 0x0000000000000000 = .ok .nop ∧
  decodeWord 0x10000100000003E9 = .ok (.edge 0x01 1001) ∧
  decodeWord 0x20000000000005FA = .ok (.tick 1530) ∧
  decodeWord 0x8301000000000000 = .ok (.create (some 0x00) (some 0x01) none) ∧
  decodeWord 0x87010000000001F4 = .ok (.create (some 0x00) (some 0x01) (some 500)) ∧
  decodeWord 0x9000000000000007 = .ok (.subscribe 7) ∧
  decodeWord 0x4500000002020003 = .ok (.isvalid 0x2020003) ∧
  decodePins 0b010#3 = .cycle false true false

/-- R89: a word is reserved exactly when it matches none of R83 to R88, by their masks and matches and the conditions
of CREATE; a trace whose next word is reserved is refused. -/
def Obligations.ReservedWordsAreTheUnmatched : Prop :=
  (∀ (s : State) (w : EventWord) (rest : List Input), s.trace = .code (.word w) :: rest →
    ((∃ why, decodeWord w = .error why) ↔ ∃ why, step s = .refused (.reservedWord why))) ∧
  ∀ w : EventWord,
    (∃ why, decodeWord w = .error why) ↔
      ¬ (w = 0 ∨
         w &&& 0xFFFF000000000000 = 0x1000000000000000 ∨
         w &&& 0xFFFFFF0000000000 = 0x2000000000000000 ∨
         (∃ k : Nat, k ≤ 6 ∧ w &&& 0xFFFFFF0000000000 = 0x4000000000000000 + BitVec.ofNat 64 (k * 2 ^ 56)) ∨
         w &&& 0xFFFFFFFFFFFF0000 = 0x9000000000000000 ∨
         (w &&& 0xF800000000000000 = 0x8000000000000000 ∧
          (w.getLsbD 56 = false → w &&& 0x0000FF0000000000 = 0) ∧
          (w.getLsbD 57 = false → w &&& 0x00FF000000000000 = 0) ∧
          (w.getLsbD 58 = false → w &&& 0x000000FFFFFFFFFF = 0)))

/-- R81 to R88, R94, R104: every operation that a word can carry survives encoding and decoding, with every operand at
every value its field admits; a resolved edge comes back as the EDGE that resolves to it. -/
def Obligations.DecodeEncode : Prop :=
  ∀ (a b : Nat) (i : Instr), a ≠ b → wellFormed a b i = true →
    ∃ j, decodeCode (encode a b i) = .ok j ∧ resolve a b j = resolve a b i ∧
      (resolvedEdge i = false → j = i)

/-- R81 to R89, R94: what a code decodes to can be carried, is no resolved edge, and encodes to that very code: no bit
of a code that is not reserved is dropped. -/
def Obligations.EncodeDecode : Prop :=
  ∀ (a b : Nat) (c : Code) (i : Instr), decodeCode c = .ok i →
    encode a b i = c ∧ wellFormed a b i = true ∧ resolvedEdge i = false

/-- R93, R76, R71: the edges of CARD are 26 pulses; from an idle running block they accumulate the raw value of the
valid card, whose fields are the numbers given and which ISVALID accepts under every reading of ISVALID_WIDE. -/
def Obligations.CardAccumulatesTheValidCard : Prop :=
  ∀ (s : State) (fc : BitVec 8) (cn : BitVec 16) (t0 dt : Int),
    live s = true → s.acc = 0 → s.portA ≠ s.portB → configValid s.par = true →
    ∃ raw, (expandLine s.portA s.portB (.card fc cn t0 dt)).length = 26 ∧
      runEvents (expandLine s.portA s.portB (.card fc cn t0 dt)) s =
        .next { s with acc := raw, lat := t0 + 25 * dt } ∧
      fcOf raw = fc ∧ cnOf raw = cn ∧ raw < 2 ^ 26 ∧ ∀ wide, isValidOf wide raw = true

/-! ## The step -/

/-- R18, R95: when the next element of the trace decodes to an operation, a step is that operation applied to the state
without the element; a reserved word refuses the trace (R89); with nothing arrived the block waits (R210; the form of
the trace is the model's, log 7). -/
def Obligations.StepRunsTheDecodedOperation : Prop :=
  (∀ (s : State) (input : Input) (rest : List Input) (i : Instr),
    s.trace = input :: rest → decodeInput input = .ok i → step s = exec i { s with trace := rest }) ∧
  (∀ (s : State) (input : Input) (rest : List Input) (why : Reserved),
    s.trace = input :: rest → decodeInput input = .error why → step s = .refused (.reservedWord why)) ∧
  (∀ s : State, s.trace = [] → step s = .next s)

/-! ## Reset and CREATE -/

/-- R36 with the parameters of log 1 and the ports of log 2: the reset state is the one a cycle with rst = 1 leaves. -/
def Obligations.ResetIsWhatRstLeaves : Prop :=
  ∀ (s : State) (d1n d0n : Bool),
    s.par = defaultConfig → s.draws = 0 → s.reply = none → s.trace = [] →
    exec (.cycle true d1n d0n) s = .next State.reset

/-- R101, R36, R214: a CREATE with two present, distinct sources and a positive timeout, on any block or none, leaves
every register at its reset value, CFG as given, LAT the next free draw (log 3). That the registers of the binding and
the fields of the model's own are as written is the model's choice (log 11). -/
def Obligations.CreateStartsAFreshBlock : Prop :=
  ∀ (s : State) (a b : Nat) (timeout : Option Int),
    configValid s.par = true → a ≠ b → (∀ t, timeout = some t → 0 < t) →
    exec (.create (some a) (some b) timeout) s =
      .next { par := s.par, created := true, portA := a, portB := b,
              tInact := timeout.getD (500 * (s.par.ms : Int)),
              acc := 0, lat := Config.latDraw s.draws, subs := [], out := [], fault := .none,
              now := 0, pcnt := s.par.tPoll - 1, p0 := false, p1 := false, outRaw := 0, outStb := false,
              reply := s.reply, draws := s.draws + 1, trace := s.trace }

/-- R101, R181, R192: the four causes in the order of the tests, the first hit recorded; SUBS and OUT become empty and
every other register keeps its value, which is the model's choice where R101 says "all else irrelevant" (log 12). -/
def Obligations.CreateReportsTheFirstCause : Prop :=
  ∀ (s : State) (src0 src1 : Option Nat) (timeout : Option Int), configValid s.par = true →
    let failed (cause : ConfigCause) : Outcome :=
      .next { s with created := true, fault := .configurationError cause, subs := [], out := [] }
    (src0 = none → exec (.create src0 src1 timeout) s = failed .source0Absent) ∧
    (∀ a, src0 = some a → src1 = none → exec (.create src0 src1 timeout) s = failed .source1Absent) ∧
    (∀ a, src0 = some a → src1 = some a → exec (.create src0 src1 timeout) s = failed .notDistinct) ∧
    (∀ a b t, src0 = some a → src1 = some b → a ≠ b → timeout = some t → t ≤ 0 →
      exec (.create src0 src1 timeout) s = failed .timeoutNotPositive)

/-- R26, R184, R181: the bits FAULT reads as: no fault is (0, 0), each of the four causes of ConfigurationError is code 1
with its own number, InvalidPortError is code 2 with the port, and code 3 is never read (the type of FAULT has no value
for it, log 17). -/
def Obligations.FaultReadsAsItsCodes : Prop :=
  (faultCode .none = 0b00 ∧ faultInfo .none = 0) ∧
  (∀ cause, faultCode (.configurationError cause) = 0b01) ∧
  faultInfo (.configurationError .source0Absent) = 1 ∧
  faultInfo (.configurationError .source1Absent) = 2 ∧
  faultInfo (.configurationError .notDistinct) = 3 ∧
  faultInfo (.configurationError .timeoutNotPositive) = 4 ∧
  (∀ p, faultCode (.invalidPort p) = 0b10 ∧ faultInfo (.invalidPort p) = p) ∧
  (∀ f : FaultReg, faultCode f ≠ 0b11) ∧
  (∀ f : FaultReg, faultCode f = 0b00 → f = .none)

/-- R152, R161, R212, R36: a cycle with rst = 1, whatever the other pins and whatever the state, leaves every register at
its reset value; a static T_INACT of 0 leaves the block halted with FAULT (1, 4). That LAT has TS_W bits is DEDUCED
(log 3), that CFG.T_INACT holds the static value also when it is the illegal 0 is the model's choice (log 27), and the
draw counter is the model's own (log 5). -/
def Obligations.RstPinResetsEveryRegister : Prop :=
  ∀ (s : State) (d1n d0n : Bool), bindingValid s.par = true →
    ∃ lat : Int, 0 ≤ lat ∧ lat < 2 ^ s.par.tsW ∧
    exec (.cycle true d1n d0n) s =
      .next { par := s.par, created := true, portA := 0x00, portB := 0x01, tInact := (s.par.tInact : Int),
              acc := 0, lat := lat, subs := [], out := [],
              fault := if s.par.tInact = 0 then .configurationError .timeoutNotPositive else .none,
              now := 0, pcnt := s.par.tPoll - 1, p0 := false, p1 := false, outRaw := 0, outStb := false,
              reply := s.reply, draws := s.draws + 1, trace := s.trace }

/-- R150, R161, R9, 93 I14 and I22: parameters that are no instance of the spec are refused where a block would come to
be or a clock cycle would run. The refusal is the model's choice (log 14). -/
def Obligations.ParametersOutsideTheSpecAreRefused : Prop :=
  (∀ (s : State) (src0 src1 : Option Nat) (timeout : Option Int),
    ((∃ w, s.par.accW = some w ∧ w < 26) ∨ s.par.ms = 0 ∨ s.par.tPoll = 0) →
    exec (.create src0 src1 timeout) s = .refused .outsideTheSpec) ∧
  (∀ (s : State) (rst d1n d0n : Bool),
    (s.par.accW = none ∨ (∃ w, s.par.accW = some w ∧ w < 26) ∨ s.par.ms = 0 ∨ s.par.tPoll = 0 ∨
      2 ^ s.par.tsW ≤ s.par.tInact + s.par.tPoll ∨ s.par.fClk ≠ 1000 * s.par.ms) →
    exec (.cycle rst d1n d0n) s = .refused .outsideTheSpec)

/-! ## The frame decoder -/

/-- R102: SUBSCRIBE appends its handler, duplicates kept, and writes nothing else. -/
def Obligations.SubscribeAppendsTheHandler : Prop :=
  ∀ (s : State) (h : Nat), live s = true →
    exec (.subscribe h) s = .next { s with subs := s.subs ++ [h] }

/-- R103, R117: NOP changes nothing, in every state. -/
def Obligations.NopChangesNothing : Prop := ∀ s : State, exec .nop s = .next s

/-- R104: EDGE in a running block completes as exactly the one of EDGE0, EDGE1 and EDGEX that equality with PORT_A and
PORT_B selects. -/
def Obligations.EdgeResolvesByPort : Prop :=
  ∀ (s : State) (p : Nat) (t : Int), live s = true → s.portA ≠ s.portB →
    (p = s.portA → exec (.edge p t) s = .next { s with acc := trunc s.par (2 * s.acc), lat := t } ∧
      exec (.edge0 t) s = exec (.edge p t) s) ∧
    (p = s.portB → exec (.edge p t) s = .next { s with acc := trunc s.par (2 * s.acc + 1), lat := t } ∧
      exec (.edge1 t) s = exec (.edge p t) s) ∧
    (p ≠ s.portA → p ≠ s.portB → exec (.edge p t) s = .next { s with fault := .invalidPort p } ∧
      exec (.edgex p t) s = exec (.edge p t) s)

/-- R105, R113: EDGE0 writes ACC and LAT together and nothing else; the bit shifted in is 0. -/
def Obligations.EdgeZeroShiftsInAZero : Prop :=
  ∀ (s : State) (t : Int), live s = true →
    exec (.edge0 t) s = .next { s with acc := trunc s.par (2 * s.acc), lat := t }

/-- R106, R113: EDGE1 writes ACC and LAT together and nothing else; the bit shifted in is 1. With ACC_W at least 26 the
new ACC is odd, so the block collects. -/
def Obligations.EdgeOneShiftsInAOne : Prop :=
  ∀ (s : State) (t : Int), live s = true →
    exec (.edge1 t) s = .next { s with acc := trunc s.par (2 * s.acc + 1), lat := t } ∧
    (configValid s.par = true → trunc s.par (2 * s.acc + 1) % 2 = 1)

/-- R107, R182, R194: EDGEX writes FAULT and nothing else, and the block is halted; in a block that is halted already it
writes nothing, so FAULT keeps the first fault. -/
def Obligations.EdgeXFaultsAndHalts : Prop :=
  ∀ (s : State) (p : Nat) (t : Int),
    (live s = true →
      exec (.edgex p t) s = .next { s with fault := .invalidPort p } ∧
      halted { s with fault := .invalidPort p } = true) ∧
    (s.created = true → halted s = true → exec (.edgex p t) s = .next s)

/-- R109: TICK on ACC = 0, or with now - LAT at most T_INACT (the negative differences included), changes nothing. -/
def Obligations.TickIdleChangesNothing : Prop :=
  ∀ (s : State) (now : Int), live s = true → (s.acc = 0 ∨ now - s.lat ≤ s.tInact) →
    exec (.tick now) s = .next s

/-- R110, R118, R119: TICK on ACC ≠ 0 with now - LAT over T_INACT appends the snapshot with the handlers of the moment
to OUT and clears ACC; LAT and everything else keep their values, also with no subscriber. -/
def Obligations.TickFinalizes : Prop :=
  ∀ (s : State) (now : Int), live s = true → s.acc ≠ 0 → s.tInact < now - s.lat →
    exec (.tick now) s = .next { s with acc := 0, out := s.out ++ [{ raw := s.acc, subs := s.subs }] }

/-- R117: while the block is halted SUBSCRIBE, NOP, EDGE, its resolutions and TICK change no state at all; only CREATE
(R36: and rst) leaves the halted state; before the first CREATE, SUBSCRIBE, EDGE and TICK are refused, while NOP and the
codec queries are allowed anywhere. -/
def Obligations.HaltedAndMissingBlocks : Prop :=
  ∀ (s : State) (i : Instr),
    (s.created = true → halted s = true → decoderEvent i = true ∨ i = .nop → exec i s = .next s) ∧
    (∀ s', halted s = true → exec i s = .next s' → halted s' = false →
      (∃ src0 src1 timeout, i = .create src0 src1 timeout) ∨ ∃ d1n d0n, i = .cycle true d1n d0n) ∧
    (s.created = false → decoderEvent i = true → exec i s = .refused .beforeCreate) ∧
    (i = .nop → exec i s = .next s) ∧
    (codecQuery i = true → ∃ answer, exec i s = .next { s with reply := answer })

/-- R29: the transitions of the control state of a running block with EDGE0, EDGE1, TICK and EDGEX; the control state is
never `finalize` between two events (R28). -/
def Obligations.ControlStateTransitions : Prop :=
  ∀ (s s' : State) (i : Instr), live s = true → configValid s.par = true → exec i s = .next s' →
    controlState s' ≠ .finalize ∧
    (∀ t, i = .edge0 t → (controlState s' = .idle ↔ trunc s.par (2 * s.acc) = 0)) ∧
    (∀ t, i = .edge0 t → controlState s = .idle → controlState s' = .idle) ∧
    (∀ t, i = .edge1 t → controlState s' = .collect) ∧
    (∀ now, i = .tick now → controlState s = .idle → controlState s' = .idle) ∧
    (∀ now, i = .tick now → controlState s = .collect →
      controlState s' = if expired s now then .idle else .collect) ∧
    (∀ p t, i = .edgex p t → controlState s' = controlState s ∧ halted s' = true)

/-! ## The codec -/

/-- R131 to R135, R130: the four accessors and FROMRAW answer, in every state, the bits of the raw value the layout
gives them, and write nothing but the answer. -/
def Obligations.CodecAnswersTheFields : Prop :=
  ∀ (s : State) (raw : Nat),
    exec (.fromraw raw) s = .next { s with reply := some (.cardData { raw := raw }) } ∧
    exec (.tpb raw) s = .next { s with reply := some (.tpb (BitVec.ofNat 1 (raw % 2))) } ∧
    exec (.cn raw) s = .next { s with reply := some (.cn (BitVec.ofNat 16 (raw / 2 % 2 ^ 16))) } ∧
    exec (.fc raw) s = .next { s with reply := some (.fc (BitVec.ofNat 8 (raw / 2 ^ 17 % 2 ^ 8))) } ∧
    exec (.lpb raw) s = .next { s with reply := some (.lpb (BitVec.ofNat 1 (raw / 2 ^ 25 % 2))) }

/-- R14: the Hamming weight is the number of the bits that are 1. -/
def Obligations.PopcountCountsBits : Prop :=
  ∀ n v : Nat, v < 2 ^ n → popcount v = ((List.range n).filter v.testBit).length

/-- R136, R138: ISVALID answers by the number of set bits among bits 25:13 and among bits 12:0, under each reading of
values of more than 26 bits, and writes nothing but the answer. -/
def Obligations.IsValidCountsTheGroups : Prop :=
  ∀ (s : State) (raw n : Nat), raw < 2 ^ n →
    let low := ((List.range 13).filter fun k => raw.testBit k).length
    let high := ((List.range 13).filter fun k => raw.testBit (13 + k)).length
    let highAll := ((List.range n).filter fun k => raw.testBit (13 + k)).length
    ∃ verdict : Bool, exec (.isvalid raw) s = .next { s with reply := some (.isValid verdict) } ∧
      (s.par.isValidWide = .ignoreHigh → (verdict = true ↔ high % 2 = 0 ∧ low % 2 = 1)) ∧
      (s.par.isValidWide = .falseIfHigh → (verdict = true ↔ raw < 2 ^ 26 ∧ high % 2 = 0 ∧ low % 2 = 1)) ∧
      (s.par.isValidWide = .upperUnmasked → (verdict = true ↔ highAll % 2 = 0 ∧ low % 2 = 1))

/-- R137: TOSTRING answers RENDER of the five items in the order of the rule, whatever RENDER is. -/
def Obligations.ToStringRendersTheFiveItems : Prop :=
  ∀ (s : State) (raw : Nat),
    exec (.tostring raw) s =
      .next { s with reply := some (.text (Config.render (BitVec.ofNat 1 (raw / 2 ^ 25 % 2))
        (BitVec.ofNat 8 (raw / 2 ^ 17 % 2 ^ 8)) (BitVec.ofNat 16 (raw / 2 % 2 ^ 16)) (BitVec.ofNat 1 (raw % 2))
        (isValidOf s.par.isValidWide raw))) }

/-- R139(a), R76: composition and extraction are inverse below 2^26. -/
def Obligations.ComposeAndExtractAreInverse : Prop :=
  (∀ (lpb : BitVec 1) (fc : BitVec 8) (cn : BitVec 16) (tpb : BitVec 1),
    compose lpb fc cn tpb < 2 ^ 26 ∧
    lpbOf (compose lpb fc cn tpb) = lpb ∧ fcOf (compose lpb fc cn tpb) = fc ∧
    cnOf (compose lpb fc cn tpb) = cn ∧ tpbOf (compose lpb fc cn tpb) = tpb) ∧
  (∀ raw : Nat, raw < 2 ^ 26 → compose (lpbOf raw) (fcOf raw) (cnOf raw) (tpbOf raw) = raw)

/-- R139(b), R77: bits 26 and above reach no accessor. -/
def Obligations.AccessorsIgnoreHighBits : Prop :=
  ∀ raw : Nat,
    lpbOf raw = lpbOf (raw % 2 ^ 26) ∧ fcOf raw = fcOf (raw % 2 ^ 26) ∧ cnOf raw = cnOf (raw % 2 ^ 26) ∧
    tpbOf raw = tpbOf (raw % 2 ^ 26) ∧ isValidOf .ignoreHigh raw = isValidOf .ignoreHigh (raw % 2 ^ 26)

/-- R139(c): exactly 2^24 of the 2^26 values below 2^26 are valid. -/
def Obligations.QuarterOfTheValuesAreValid : Prop :=
  ∀ wide : IsValidWide, ((Finset.range (2 ^ 26)).filter fun raw => isValidOf wide raw = true).card = 2 ^ 24

/-- R139(d), R76: for every facility code and card number exactly one choice of the parity bits is valid, the one of
R76. -/
def Obligations.ValidParityBitsAreUnique : Prop :=
  ∀ (lpb : BitVec 1) (fc : BitVec 8) (cn : BitVec 16) (tpb : BitVec 1) (wide : IsValidWide),
    isValidOf wide (compose lpb fc cn tpb) = true ↔ lpb = validLpb fc cn ∧ tpb = validTpb cn

/-- R139(e): changing exactly one bit of a valid value below 2^26 makes it invalid; changing two bits of one group leaves
it valid. -/
def Obligations.SingleBitErrorsAreDetected : Prop :=
  ∀ (raw k l : Nat), raw < 2 ^ 26 → isValidOf .ignoreHigh raw = true → k < 26 →
    isValidOf .ignoreHigh (raw ^^^ 2 ^ k) = false ∧
    (l < 26 → k ≠ l → (k < 13 ↔ l < 13) → isValidOf .ignoreHigh (raw ^^^ 2 ^ k ^^^ 2 ^ l) = true)

/-! ## Properties of runs of the event machine -/

/-- R71: the serial order: pulses applied from ACC = 0 give the number whose first digit is the first pulse. -/
def Obligations.PulsesAccumulateMostSignificantFirst : Prop :=
  ∀ (s : State) (pulses : List Pulse), live s = true → s.portA ≠ s.portB → s.acc = 0 →
    ∃ lat, runEvents (pulses.map (pulseEdge s.portA s.portB)) s =
      .next { s with acc := trunc s.par (appendBits 0 (pulses.map (·.1))), lat := lat } ∧
      ∀ p ∈ pulses.getLast?, lat = p.2

/-- R114: the closed form of accumulation, with ticks in between none of which finalizes. -/
def Obligations.AccumulationClosedForm : Prop :=
  ∀ (s s' : State) (events : List Instr), live s = true → fitsAcc s.par s.acc →
    (∀ i ∈ events, edgeOrTick i = true) → runEvents events s = .next s' → s'.out = s.out →
    s' = { s with acc := trunc s.par (appendBits s.acc (events.filterMap edgeBit)), lat := s'.lat } ∧
    (∀ t, lastEdgeTime events = some t → s'.lat = t) ∧ (lastEdgeTime events = none → s'.lat = s.lat)

/-- R115: Finalize-on-silence: with ticks only, exactly one event is emitted, at the first tick over the timeout, it
carries ACC, and ACC is zero after; with no such tick nothing changes. -/
def Obligations.FinalizeOnSilence : Prop :=
  ∀ (s : State) (nows : List Int), live s = true → s.acc ≠ 0 →
    ((∃ n ∈ nows, s.tInact < n - s.lat) →
      runEvents (nows.map Instr.tick) s =
        .next { s with acc := 0, out := s.out ++ [{ raw := s.acc, subs := s.subs }] }) ∧
    ((∀ n ∈ nows, n - s.lat ≤ s.tInact) → runEvents (nows.map Instr.tick) s = .next s)

/-- R116: No-emit-on-idle: from ACC = 0 and OUT = [], a sequence of events of the event machine with no EDGE1 and no
further CREATE leaves them so. -/
def Obligations.NoEmitOnIdle : Prop :=
  ∀ (s s' : State) (events : List Instr), s.acc = 0 → s.out = [] →
    (∀ i ∈ events, (∀ t, i ≠ .edge1 t) ∧ (∀ t, i ≠ .edge s.portB t) ∧ (∀ a b t, i ≠ .create a b t) ∧
      (∀ r x y, i ≠ .cycle r x y)) →
    runEvents events s = .next s' → s'.acc = 0 ∧ s'.out = []

/-- R59, R221: an edge on either line is before the whole finalize or after the whole finalize. After it, its bit is the
first of the next frame and the frame before is emitted whole. Before it, its bit is in the frame: in the snapshot, if
the tick is over the timeout from the edge on too. (Where a finite ACC_W has shifted the last set bit out, R234, the frame
is 0 and nothing is emitted, R109.) -/
def Obligations.NoLostUpdateAtFinalize : Prop :=
  ∀ (s : State) (now t : Int) (bit : Bool), live s = true → configValid s.par = true → s.acc ≠ 0 →
    let edge : Instr := if bit then .edge1 t else .edge0 t
    let joined := trunc s.par (2 * s.acc + bit.toNat)
    (s.tInact < now - s.lat →
      runEvents [.tick now, edge] s =
        .next { s with acc := bit.toNat, lat := t, out := s.out ++ [{ raw := s.acc, subs := s.subs }] }) ∧
    (now - t ≤ s.tInact → runEvents [edge, .tick now] s = .next { s with acc := joined, lat := t }) ∧
    (s.tInact < now - t → joined ≠ 0 →
      runEvents [edge, .tick now] s =
        .next { s with acc := 0, lat := t, out := s.out ++ [{ raw := joined, subs := s.subs }] }) ∧
    (s.tInact < now - t → joined = 0 → runEvents [edge, .tick now] s = .next { s with acc := 0, lat := t })

/-- R226, R229, R190: finalize latency. Under TICK-PACE, whose ticks never cease, a frame after which no edge comes is
finalized at the first tick over the timeout: there is such a tick, those before it change nothing, it emits the frame,
and those after it change nothing. With the bound `pMax`, after the CREATE or a tick at `start` not later than the last
edge, that tick lies in L + T_INACT < now <= L + T_INACT + pMax. -/
def Obligations.FinalizeLatency : Prop :=
  ∀ (s : State) (ticks : Nat → Int), live s = true → s.acc ≠ 0 → 1 ≤ s.par.tPoll → TickPace s.par.tPoll ticks →
    ∃ k, s.lat + s.tInact < ticks k ∧
      (∀ n ≤ k, runEvents (firstTicks ticks n) s = .next s) ∧
      (∀ n, k < n → runEvents (firstTicks ticks n) s =
        .next { s with acc := 0, out := s.out ++ [{ raw := s.acc, subs := s.subs }] }) ∧
      ∀ pMax start, start ≤ s.lat → 0 ≤ s.tInact → TickBound pMax start ticks →
        ticks k ≤ s.lat + s.tInact + pMax

/-- R227(a), R224: a gap of at most T_INACT never splits a frame. -/
def Obligations.ShortGapsNeverSplitAFrame : Prop :=
  ∀ (s : State) (nows : List Int) (bit : Bool) (t2 : Int), live s = true → s.acc ≠ 0 →
    (∀ n ∈ nows, n ≤ t2) → t2 - s.lat ≤ s.tInact →
    runEvents (nows.map Instr.tick ++ [if bit then .edge1 t2 else .edge0 t2]) s =
      .next { s with acc := trunc s.par (2 * s.acc + bit.toNat), lat := t2 }

/-- R227(b), R225, R229: a pause over T_INACT + pMax always separates frames. If an edge at `t2` is applied after the first
`n` ticks, so that the next of them is not before `t2`, then some tick before it has finalized, and the second bit starts
a new frame. -/
def Obligations.LongPausesAlwaysSeparateFrames : Prop :=
  ∀ (s : State) (ticks : Nat → Int) (n : Nat) (start pMax : Int) (bit : Bool) (t2 : Int),
    live s = true → s.acc ≠ 0 → fitsAcc s.par 1 → start ≤ s.lat → 0 ≤ s.tInact →
    TickBound pMax start ticks → t2 ≤ ticks n → FrameGap s.tInact pMax s.lat t2 →
    runEvents (firstTicks ticks n ++ [if bit then .edge1 t2 else .edge0 t2]) s =
      .next { s with acc := bit.toNat, lat := t2, out := s.out ++ [{ raw := s.acc, subs := s.subs }] }

/-- R37, I1: LAT at reset, and after every finalize, is unobservable: two runs of the same events from states that
differ in LAT only, while ACC = 0, differ at most in LAT, and in nothing once an edge has made ACC nonzero. -/
def Obligations.LatWhileIdleIsUnobservable : Prop :=
  ∀ (s s1 : State) (lat : Int) (events : List Instr), s.acc = 0 → runEvents events s = .next s1 →
    ∃ lat1, runEvents events { s with lat := lat } = .next { s1 with lat := lat1 } ∧ (s1.acc ≠ 0 → lat1 = s1.lat)

/-! ## Whole-machine rules -/

/-- R41, R20, R23, R26: the invariants hold in the reset state and before any CREATE. -/
def Obligations.InvariantsHoldAtReset : Prop := Inv State.reset ∧ Inv State.noBlock

/-- R41, R20, R23, R26: every step keeps the invariants, from every state that has them. -/
def Obligations.EveryStepKeepsTheInvariants : Prop :=
  ∀ s s' : State, Inv s → step s = .next s' → Inv s'

/-- R23, R64: the configuration changes at CREATE and rst only, and the static parameters never. -/
def Obligations.ConfigurationIsImmutable : Prop :=
  ∀ (s s' : State) (i : Instr), exec i s = .next s' →
    s'.par = s.par ∧
    ((∀ a b t, i ≠ .create a b t) → (∀ x y, i ≠ .cycle true x y) →
      s'.portA = s.portA ∧ s'.portB = s.portB ∧ s'.tInact = s.tInact ∧ s'.created = s.created)

/-- R26, R195, R184: FAULT, once nonzero, is changed by CREATE and rst only, and while it is nonzero nothing else
changes ACC, LAT, SUBS or OUT. -/
def Obligations.FaultIsStickyAndFreezesTheBlock : Prop :=
  ∀ (s s' : State) (i : Instr), halted s = true → exec i s = .next s' →
    (∀ a b t, i ≠ .create a b t) → (∀ x y, i ≠ .cycle true x y) →
    s'.fault = s.fault ∧ s'.acc = s.acc ∧ s'.lat = s.lat ∧ s'.subs = s.subs ∧ s'.out = s.out

/-- R20, R21, R22, R24, R25, R26, R31 to R34: the table's column "written by", for every operation but CREATE and CYCLE:
none but those named writes ACC, LAT, SUBS, OUT or FAULT, and none at all NOW, PCNT, P0, P1, OUT_RAW or OUT_STB. A CREATE
that succeeds writes every register (those of the binding: log 11). A CYCLE writes ACC and LAT by R157,
and OUT by log 10, besides what the column gives it; with rst = 0 its writes are those of EveryCycleCompletes and
HaltedCycleClearsTheStrobe, with rst = 1 those of RstPinResetsEveryRegister. -/
def Obligations.OnlyTheNamedOperationsWrite : Prop :=
  ∀ (s s' : State) (i : Instr), exec i s = .next s' →
    (∀ a b t, i ≠ .create a b t) → (∀ r x y, i ≠ .cycle r x y) →
    (s'.acc ≠ s.acc → (∃ p t, i = .edge p t) ∨ (∃ t, i = .edge0 t) ∨ (∃ t, i = .edge1 t) ∨ ∃ t, i = .tick t) ∧
    (s'.lat ≠ s.lat → (∃ p t, i = .edge p t) ∨ (∃ t, i = .edge0 t) ∨ ∃ t, i = .edge1 t) ∧
    (s'.subs ≠ s.subs → ∃ h, i = .subscribe h) ∧
    (s'.out ≠ s.out → ∃ t, i = .tick t) ∧
    (s'.fault ≠ s.fault → (∃ p t, i = .edge p t) ∨ ∃ p t, i = .edgex p t) ∧
    s'.now = s.now ∧ s'.pcnt = s.pcnt ∧ s'.p0 = s.p0 ∧ s'.p1 = s.p1 ∧ s'.outRaw = s.outRaw ∧ s'.outStb = s.outStb

/-- R39: each execution context writes what it may write and nothing else. -/
def Obligations.AgentsWriteTheirOwnState : Prop :=
  ∀ (s s' : State) (i : Instr), s.portA ≠ s.portB → exec i s = .next s' →
    (agentOf s i = some .irqA → s' = { s with acc := s'.acc, lat := s'.lat }) ∧
    (agentOf s i = some .irqB → s' = { s with acc := s'.acc, lat := s'.lat }) ∧
    (agentOf s i = some .poller → s' = { s with acc := s'.acc, out := s'.out })

/-- R41(d), R41(c), R25: between two CREATEs SUBS only grows and OUT only grows, by at most one event an operation. -/
def Obligations.SubscribersAndOutputOnlyGrow : Prop :=
  ∀ (s s' : State) (i : Instr), exec i s = .next s' →
    (∀ a b t, i ≠ .create a b t) → (∀ x y, i ≠ .cycle true x y) →
    s.subs <+: s'.subs ∧ (s'.out = s.out ∨ ∃ e, s'.out = s.out ++ [e] ∧ e.subs = s.subs)

/-! ## The pin-level binding -/

/-- R157: a cycle of a halted block clears the strobe and changes nothing else, whatever the lines do. -/
def Obligations.HaltedCycleClearsTheStrobe : Prop :=
  ∀ (s : State) (d1n d0n : Bool), bindingValid s.par = true → halted s = true →
    exec (.cycle false d1n d0n) s = .next { s with outStb := false }

/-- R157, R158, R34: every cycle of a running block completes, whatever its events and their order: it moves the
samples, NOW and PCNT, it can write only ACC, LAT, OUT and the output registers besides, and it strobes exactly when it
appends to OUT the value it shows, at most one in a cycle. That a cycle also writes OUT is DEDUCED (log 10). -/
def Obligations.EveryCycleCompletes : Prop :=
  ∀ (s : State) (d1n d0n : Bool), bindingValid s.par = true → halted s = false →
    ∃ t, exec (.cycle false d1n d0n) s = .next t ∧
      t = { s with
        acc := t.acc, lat := t.lat, out := t.out, outRaw := t.outRaw, outStb := t.outStb, draws := t.draws
        p0 := d0n, p1 := d1n, now := (s.now + 1) % 2 ^ s.par.tsW
        pcnt := if s.pcnt = 0 then s.par.tPoll - 1 else s.pcnt - 1 } ∧
      (t.outStb = true → s.pcnt = 0 ∧ t.outRaw ≠ 0 ∧ t.out = s.out ++ [{ raw := t.outRaw, subs := s.subs }]) ∧
      (t.outStb = false → t.out = s.out ∧ t.outRaw = s.outRaw)

/-- R157, R154 to R156, R164: a cycle in which no tick is due moves the samples, NOW and PCNT and clears the strobe. When
no line falls it changes nothing else. When a line falls its bit is shifted in with NOW as its time; when both fall both
bits are taken, the zero first, or under `any` in either order (a free value, log 4). -/
def Obligations.CycleWithNoTickDue : Prop :=
  ∀ (s : State) (d1n d0n : Bool), bindingValid s.par = true → halted s = false → s.pcnt ≠ 0 →
    let after (acc : Nat) (lat : Int) (draws : Nat) : State :=
      { s with
        acc := acc, lat := lat, p0 := d0n, p1 := d1n
        now := (s.now + 1) % 2 ^ s.par.tsW, pcnt := s.pcnt - 1, outStb := false, draws := draws }
    ((s.p0 = true → d0n = true) → (s.p1 = true → d1n = true) →
      exec (.cycle false d1n d0n) s = .next (after s.acc s.lat s.draws)) ∧
    (s.p0 = true → d0n = false → (s.p1 = true → d1n = true) →
      exec (.cycle false d1n d0n) s = .next (after (trunc s.par (2 * s.acc)) s.now s.draws)) ∧
    (s.p1 = true → d1n = false → (s.p0 = true → d0n = true) →
      exec (.cycle false d1n d0n) s = .next (after (trunc s.par (2 * s.acc + 1)) s.now s.draws)) ∧
    (s.p0 = true → d0n = false → s.p1 = true → d1n = false →
      ∃ acc draws, exec (.cycle false d1n d0n) s = .next (after acc s.now draws) ∧
        (acc = trunc s.par (4 * s.acc + 1) ∨
          (s.par.sameCycleOrder = .any ∧ acc = trunc s.par (4 * s.acc + 2))))

/-- R157, R156, R162, R158: a cycle with a tick due and no line falling finalizes exactly when ACC ≠ 0 and the modular
comparison holds: the snapshot goes to OUT_RAW with the strobe, and to OUT (DEDUCED, log 10). -/
def Obligations.CycleTickFinalizesOntoThePins : Prop :=
  ∀ (s : State) (d1n d0n : Bool), bindingValid s.par = true → halted s = false → s.pcnt = 0 →
    (s.p0 = true → d0n = true) → (s.p1 = true → d1n = true) →
    exec (.cycle false d1n d0n) s =
      if s.acc ≠ 0 ∧ s.tInact < ((s.now : Int) - s.lat) % 2 ^ s.par.tsW then
        .next { s with
          acc := 0, out := s.out ++ [{ raw := s.acc, subs := s.subs }], outRaw := s.acc, outStb := true
          p0 := d0n, p1 := d1n, now := (s.now + 1) % 2 ^ s.par.tsW, pcnt := s.par.tPoll - 1 }
      else
        .next { s with
          outStb := false, p0 := d0n, p1 := d1n, now := (s.now + 1) % 2 ^ s.par.tsW, pcnt := s.par.tPoll - 1 }

/-- R164: the events of a cycle are exactly EDGE0, EDGE1 and TICK as their conditions hold, each once, in the order
SAME_CYCLE_ORDER fixes, and under `any` in some order, a free value (log 4). -/
def Obligations.CycleAppliesItsEventsInAnAllowedOrder : Prop :=
  ∀ (s : State) (d1n d0n : Bool),
    let e0 := if s.p0 = true ∧ d0n = false then [CycleEvent.edge0] else []
    let e1 := if s.p1 = true ∧ d1n = false then [CycleEvent.edge1] else []
    let tk := if s.pcnt = 0 then [CycleEvent.tick] else []
    (cycleEvents s d1n d0n).Perm (e0 ++ e1 ++ tk) ∧
    (s.par.sameCycleOrder = .edgesFirst → cycleEvents s d1n d0n = e0 ++ e1 ++ tk) ∧
    (s.par.sameCycleOrder = .tickFirst → cycleEvents s d1n d0n = tk ++ e0 ++ e1)

/-- R164, the table of what differs between the orders: a cycle with a tick due in which a line falls, or both. Let the
tick fire or not by the state before. Under `edges_first` the bits join the frame, and the tick, at the time of the last
edge, does not finalize. Under `tick_first` a firing tick emits the old frame and the bits start a new one, and a tick that
does not fire gives the same result as `edges_first`. Under `any` the bits come in some order, and the old frame is emitted
before them only if the tick fires (a free value, log 4). OUT in a cycle: log 10. -/
def Obligations.EdgesAndTickInOneCycle : Prop :=
  ∀ (s : State) (d1n d0n : Bool), bindingValid s.par = true → halted s = false → s.pcnt = 0 → 0 ≤ s.tInact →
    let bits := fallingBits s d1n d0n
    bits ≠ [] →
    let fires : Prop := s.acc ≠ 0 ∧ s.tInact < ((s.now : Int) - s.lat) % 2 ^ s.par.tsW
    let joined (bits : List Bool) (draws : Nat) : State :=
      { s with
        acc := shiftBits s.par s.acc bits, lat := (s.now : Int), outStb := false, p0 := d0n, p1 := d1n
        now := (s.now + 1) % 2 ^ s.par.tsW, pcnt := s.par.tPoll - 1, draws := draws }
    let split (bits : List Bool) (draws : Nat) : State :=
      { s with
        acc := shiftBits s.par 0 bits, lat := (s.now : Int), out := s.out ++ [{ raw := s.acc, subs := s.subs }]
        outRaw := s.acc, outStb := true, p0 := d0n, p1 := d1n
        now := (s.now + 1) % 2 ^ s.par.tsW, pcnt := s.par.tPoll - 1, draws := draws }
    (s.par.sameCycleOrder = .edgesFirst → exec (.cycle false d1n d0n) s = .next (joined bits s.draws)) ∧
    (s.par.sameCycleOrder = .tickFirst →
      (fires → exec (.cycle false d1n d0n) s = .next (split bits s.draws)) ∧
      (¬ fires → exec (.cycle false d1n d0n) s = .next (joined bits s.draws))) ∧
    (s.par.sameCycleOrder = .any →
      ∃ order draws, order.Perm bits ∧
        (exec (.cycle false d1n d0n) s = .next (joined order draws) ∨
          (fires ∧ exec (.cycle false d1n d0n) s = .next (split order draws))))

/-- R162: the comparator of the binding agrees with the exact one while the time since the last edge is between 0 and
T_INACT + T_POLL. -/
def Obligations.ModularComparatorIsExact : Prop :=
  ∀ (s : State) (c cLat : Int), bindingValid s.par = true → s.tInact = (s.par.tInact : Int) →
    (s.now : Int) = c % 2 ^ s.par.tsW → s.lat = cLat % 2 ^ s.par.tsW →
    0 ≤ c - cLat → c - cLat ≤ s.par.tInact + s.par.tPoll →
    (expiredMod s = true ↔ s.tInact < c - cLat)

/-- R155, R156, R229: after `n` cycles from rst, NOW is n modulo 2^TS_W and PCNT counts the divider; a tick is due exactly
in the cycles T_POLL - 1, 2 T_POLL - 1, ..., and ticks at these times keep TICK-PACE with P_MAX = T_POLL. -/
def Obligations.TimeBaseAndPollDivider : Prop :=
  ∀ (s s0 : State) (d1n d0n : Bool) (samples : List (Bool × Bool)), 0 < s.par.tInact →
    exec (.cycle true d1n d0n) s = .next s0 →
    let times (k : Nat) : Int := ((k : Int) + 1) * s.par.tPoll - 1
    (∃ b, runEvents (cyclesOf samples) s0 = .next b ∧ b.now = samples.length % 2 ^ s.par.tsW ∧
      b.pcnt = s.par.tPoll - 1 - samples.length % s.par.tPoll ∧
      (b.pcnt = 0 ↔ ∃ k, (samples.length : Int) = times k)) ∧
    TickPace s.par.tPoll times ∧ TickBound s.par.tPoll 0 times

/-- R158: strobes are never in adjacent cycles. -/
def Obligations.StrobesAreNeverAdjacent : Prop :=
  ∀ (s s1 s2 : State) (x1 x0 y1 y0 : Bool), 1 ≤ s.tInact →
    exec (.cycle false x1 x0) s = .next s1 → s1.outStb = true →
    exec (.cycle false y1 y0) s1 = .next s2 → s2.outStb = false

/-- R151, R158, R159, R160: the pins are functions of the output registers and of FAULT; after rst, with a positive
timeout, they all read 0. -/
def Obligations.PinsShowTheOutputRegisters : Prop :=
  (∀ s : State, (pins s).cardStb = s.outStb ∧ (pins s).cardRaw = s.outRaw ∧
    (pins s).lpb = BitVec.ofNat 1 (s.outRaw / 2 ^ 25 % 2) ∧ (pins s).fc = BitVec.ofNat 8 (s.outRaw / 2 ^ 17 % 2 ^ 8) ∧
    (pins s).cn = BitVec.ofNat 16 (s.outRaw / 2 % 2 ^ 16) ∧ (pins s).tpb = BitVec.ofNat 1 (s.outRaw % 2) ∧
    (pins s).ok = isValidOf s.par.isValidWide s.outRaw ∧ (pins s).fault = faultCode s.fault) ∧
  (∀ (s s' : State) (d1n d0n : Bool), 0 < s.par.tInact → exec (.cycle true d1n d0n) s = .next s' →
    pins s' = { cardStb := false, cardRaw := 0, lpb := 0, fc := 0, cn := 0, tpb := 0, ok := false, fault := 0 })

/-- R163, R162: the step of the refinement. rst on the one side and CREATE with the ports and the timeout of the binding on
the other give related blocks. From related blocks, reached by a run or not, one cycle with any samples and the events of
that cycle under unwrapped times complete and give related blocks again, and what the event machine emitted is what the
pins show in the next cycle. Two clauses of the relation are the model's, not the spec's. LAT after rst is LAT after CREATE
modulo 2^TS_W, where R37 leaves both free: the two, from one state, read the same numbered draw (logs 3 and 5). OUT is
equal, since a finalize in a cycle also appends to OUT (DEDUCED, log 10). -/
def Obligations.EveryCycleKeepsTheSimulation : Prop :=
  (∀ (s b : State) (d1n d0n : Bool), 0 < s.par.tInact → exec (.cycle true d1n d0n) s = .next b →
    ∃ e, exec (.create (some 0x00) (some 0x01) (some (s.par.tInact : Int))) s = .next e ∧ Simulates 0 b e) ∧
  (∀ (c : Nat) (b e : State) (d1n d0n : Bool), Simulates c b e →
    ∃ b' e', exec (.cycle false d1n d0n) b = .next b' ∧
      runEvents ((cycleEvents b d1n d0n).map (eventAt c)) e = .next e' ∧
      Simulates (c + 1) b' e' ∧
      e'.out.map (·.raw) = e.out.map (·.raw) ++ (if (pins b').cardStb then [(pins b').cardRaw] else []))

/-- R163: refinement. A run of the binding from rst, under any SAME_CYCLE_ORDER, corresponds to the run of the event
machine over the events of its cycles, put after `CREATE a=0x00 b=0x01 timeout=T_INACT`: same ACC, LAT modulo 2^TS_W,
the raw values of OUT are those shown at the strobes in order, no fault, no subscriber, and the times of the sequence do
not decrease, with ticks exactly in the cycles T_POLL - 1, 2 T_POLL - 1, ... -/
def Obligations.BindingRefinesTheEventMachine : Prop :=
  ∀ (s s0 : State) (d1n d0n : Bool) (samples : List (Bool × Bool)), 0 < s.par.tInact →
    exec (.cycle true d1n d0n) s = .next s0 →
    let events := bindingEvents 0 samples s0
    ∃ b e : State,
      runEvents (cyclesOf samples) s0 = .next b ∧
      runEvents (.create (some 0x00) (some 0x01) (some (s.par.tInact : Int)) :: events) s = .next e ∧
      e.acc = b.acc ∧
      e.out.map (·.raw) = shownRaws samples s0 ∧
      e.fault = .none ∧ b.fault = .none ∧ e.subs = [] ∧
      (∀ t, lastEdgeTime events = some t → e.lat = t ∧ b.lat = t % 2 ^ s.par.tsW) ∧
      Mono events ∧
      events.filterMap tickTime =
        ((List.range samples.length).filter fun c => c % s.par.tPoll == s.par.tPoll - 1).map fun (c : Nat) => (c : Int)

/-- R165(a), R160: in a run of the binding alone, from rst, FAULT is never an InvalidPortError, and with an illegal
static T_INACT nothing is ever decoded. -/
def Obligations.BindingNeverFaultsInACycle : Prop :=
  ∀ (s s0 b : State) (d1n d0n : Bool) (samples : List (Bool × Bool)),
    exec (.cycle true d1n d0n) s = .next s0 → runEvents (cyclesOf samples) s0 = .next b →
    b.fault = s0.fault ∧ (∀ p, b.fault ≠ .invalidPort p) ∧
    (s.par.tInact = 0 → b.fault = .configurationError .timeoutNotPositive ∧ b.outStb = false ∧ b.out = [])

end
end

