-- ==== Sys2Proof/Laws/Operands.lean ====
section
/-! SUPPORT. Laws of width reduction, shifting, Hamming weight and slices. -/

namespace Sys2Proof.Machine

open Sys2Proof.Safety

/-! ### Shifting and width reduction (R12, R113) -/

/-- R113(a): `(v << 1) | b` is `2 * v + b`. -/
@[simp] theorem shiftBit_eq (v : Nat) (b : Bool) : shiftBit v b = 2 * v + b.toNat := by
  have h := Nat.two_pow_add_eq_or_of_lt (i := 1) (b := b.toNat) (by cases b <;> decide) v
  rw [shiftBit, Nat.shiftLeft_eq, Nat.mul_comm, ← h, Nat.pow_one]

@[simp] theorem trunc_zero (par : Config) : trunc par 0 = 0 := by
  unfold trunc; split <;> simp

/-- R12: every reduced value fits the register. -/
theorem fitsAcc_trunc (par : Config) (v : Nat) : fitsAcc par (trunc par v) := by
  unfold fitsAcc trunc; split <;> simp_all [Nat.mod_lt]

/-- A value that fits is not changed by reduction. -/
theorem trunc_of_fitsAcc {par : Config} {v : Nat} (h : fitsAcc par v) : trunc par v = v := by
  unfold fitsAcc at h; unfold trunc; split <;> simp_all [Nat.mod_eq_of_lt]

theorem fitsAcc_zero (par : Config) : fitsAcc par 0 := by
  unfold fitsAcc; split <;> simp_all

/-- Reducing before a shift loses nothing that reducing after it would keep. -/
theorem trunc_shift_trunc (par : Config) (v b : Nat) :
    trunc par (2 * trunc par v + b) = trunc par (2 * v + b) := by
  unfold trunc; split
  · rfl
  · rw [Nat.add_mod, Nat.mul_mod, Nat.mod_mod, ← Nat.mul_mod, ← Nat.add_mod]

/-- R9: every finite ACC_W of an instance of the spec is at least 26. -/
theorem accW_ge {par : Config} (h : configValid par = true) {w : Nat} (hw : par.accW = some w) : 26 ≤ w := by
  simp [configValid, hw] at h; exact h.1.1

/-- R106: with ACC_W at least 26 a value below 2^26 fits. -/
theorem fitsAcc_of_lt {par : Config} (h : configValid par = true) {v : Nat} (hv : v < 2 ^ 26) : fitsAcc par v := by
  unfold fitsAcc; split
  · trivial
  · rename_i w hw
    exact Nat.lt_of_lt_of_le hv (Nat.pow_le_pow_right (by decide) (accW_ge h hw))

/-- R106: the parity of a reduced value is that of the value. -/
theorem trunc_mod_two {par : Config} (h : configValid par = true) (v : Nat) : trunc par v % 2 = v % 2 := by
  unfold trunc; split
  · rfl
  · rename_i w hw
    exact Nat.mod_mod_of_dvd v (dvd_pow_self 2 (by have := accW_ge h hw; omega))

theorem configValid_of_bindingValid {par : Config} (h : bindingValid par = true) : configValid par = true := by
  simp [bindingValid] at h; exact h.1.1.1

/-! ### Hamming weight (R14) -/

@[simp] theorem popcount_zero : popcount 0 = 0 := rfl

theorem popcountAux_fuel : ∀ (f g v : Nat), v ≤ f → v ≤ g → popcountAux f v = popcountAux g v
  | 0, g, v, hf, _ => by
    have : v = 0 := by omega
    subst this; cases g <;> simp [popcountAux]
  | f + 1, 0, v, _, hg => by
    have : v = 0 := by omega
    subst this; simp [popcountAux]
  | f + 1, g + 1, v, hf, hg => by
    unfold popcountAux
    split
    · rfl
    · rw [popcountAux_fuel f g (v / 2) (by omega) (by omega)]

/-- R14: the weight is the last bit and the weight of the rest. -/
theorem popcount_rec (v : Nat) : popcount v = v % 2 + popcount (v / 2) := by
  by_cases h : v = 0
  · subst h; rfl
  · obtain ⟨k, rfl⟩ := Nat.exists_eq_succ_of_ne_zero h
    rw [popcount, popcountAux, if_neg h]
    rw [popcountAux_fuel k ((k + 1) / 2) _ (by omega) (Nat.le_refl _)]
    rfl

/-- The weight of a value put together from a low part and a high part is the sum of their weights. -/
theorem popcount_add_shift : ∀ (n lo hi : Nat), lo < 2 ^ n → popcount (hi * 2 ^ n + lo) = popcount hi + popcount lo
  | 0, lo, hi, h => by
    have : lo = 0 := by simpa using h
    subst this; simp
  | n + 1, lo, hi, h => by
    rw [popcount_rec (hi * 2 ^ (n + 1) + lo), popcount_rec lo]
    have h0 : hi * 2 ^ (n + 1) = 2 * (hi * 2 ^ n) := by ring
    have h1 : (hi * 2 ^ (n + 1) + lo) % 2 = lo % 2 := by omega
    have h2 : (hi * 2 ^ (n + 1) + lo) / 2 = hi * 2 ^ n + lo / 2 := by omega
    rw [h1, h2, popcount_add_shift n (lo / 2) hi (by rw [Nat.pow_succ] at h; omega)]
    omega

/-! ### Slices (R11) -/

/-- R11: a slice is a division and a remainder. -/
theorem slice_toNat (v lo width : Nat) : (slice v lo width).toNat = v / 2 ^ lo % 2 ^ width := by
  simp [slice, Nat.shiftRight_eq_div_pow]

theorem slice_eq (v lo width : Nat) : slice v lo width = BitVec.ofNat width (v / 2 ^ lo % 2 ^ width) := by
  apply BitVec.eq_of_toNat_eq; simp [slice_toNat]

theorem slice_getLsbD (v lo width k : Nat) : (slice v lo width).getLsbD k = (decide (k < width) && v.testBit (lo + k)) := by
  simp [slice, BitVec.getLsbD_ofNat, Nat.testBit_shiftRight]

/-! ### The layout (R73 to R76) -/

/-- R75: the even-parity group of a value below 2^26 is its quotient by 2^13. -/
theorem evenGroup_toNat (raw : Nat) : (evenGroup raw).toNat = raw / 2 ^ 13 % 2 ^ 13 := slice_toNat raw 13 13

/-- R75: the odd-parity group is the remainder by 2^13. -/
theorem oddGroup_toNat (raw : Nat) : (oddGroup raw).toNat = raw % 2 ^ 13 := by
  rw [oddGroup, slice_toNat, Nat.pow_zero, Nat.div_one]

/-- R136, R138: below 2^26 the three readings agree, and validity is the parity of the two halves. -/
theorem isValidOf_iff_of_lt (wide : IsValidWide) {raw : Nat} (h : raw < 2 ^ 26) :
    isValidOf wide raw = true ↔ popcount (raw / 2 ^ 13) % 2 = 0 ∧ popcount (raw % 2 ^ 13) % 2 = 1 := by
  have hmod : raw / 2 ^ 13 % 2 ^ 13 = raw / 2 ^ 13 := Nat.mod_eq_of_lt (by omega)
  have hhi : (evenGroup raw).toNat = raw / 2 ^ 13 := (evenGroup_toNat raw).trans hmod
  cases wide <;>
    simp only [isValidOf, groupsValid, evenWeight, oddWeight, hhi, oddGroup_toNat, Nat.shiftRight_eq_div_pow,
      Bool.and_eq_true, decide_eq_true_eq, h, true_and]

/-- R76: COMPOSE as a sum. -/
theorem compose_eq (l : BitVec 1) (f : BitVec 8) (c : BitVec 16) (t : BitVec 1) :
    compose l f c t = l.toNat * 2 ^ 25 + f.toNat * 2 ^ 17 + c.toNat * 2 + t.toNat := by
  have hl := l.isLt; have hf := f.isLt; have hc := c.isLt; have ht := t.isLt
  have glue (x y k : Nat) (hy : y < 2 ^ k) : x <<< k ||| y = x * 2 ^ k + y := by
    rw [Nat.shiftLeft_eq, Nat.mul_comm, Nat.two_pow_add_eq_or_of_lt hy]
  rw [compose, Nat.or_assoc, Nat.or_assoc, glue c.toNat _ 1 (by omega), glue f.toNat _ 17 (by omega),
    glue l.toNat _ 25 (by omega)]
  omega

/-- R76: a composed value has 26 bits. -/
theorem compose_lt (l : BitVec 1) (f : BitVec 8) (c : BitVec 16) (t : BitVec 1) : compose l f c t < 2 ^ 26 := by
  have hl := l.isLt; have hf := f.isLt; have hc := c.isLt; have ht := t.isLt
  rw [compose_eq]; omega

end Sys2Proof.Machine
end

