-- ==== Sys2Proof/Laws/State.lean ====
section
/-! SUPPORT. One lemma for each field of State and each named update, so that no proof unfolds a record update. -/

namespace Sys2Proof.Machine

section

variable (s : State)

@[simp] theorem addSub_par (h : Nat) : (addSub h s).par = s.par := rfl
@[simp] theorem addSub_created (h : Nat) : (addSub h s).created = s.created := rfl
@[simp] theorem addSub_portA (h : Nat) : (addSub h s).portA = s.portA := rfl
@[simp] theorem addSub_portB (h : Nat) : (addSub h s).portB = s.portB := rfl
@[simp] theorem addSub_tInact (h : Nat) : (addSub h s).tInact = s.tInact := rfl
@[simp] theorem addSub_acc (h : Nat) : (addSub h s).acc = s.acc := rfl
@[simp] theorem addSub_lat (h : Nat) : (addSub h s).lat = s.lat := rfl
@[simp] theorem addSub_subs (h : Nat) : (addSub h s).subs = s.subs ++ [h] := rfl
@[simp] theorem addSub_out (h : Nat) : (addSub h s).out = s.out := rfl
@[simp] theorem addSub_fault (h : Nat) : (addSub h s).fault = s.fault := rfl
@[simp] theorem addSub_now (h : Nat) : (addSub h s).now = s.now := rfl
@[simp] theorem addSub_pcnt (h : Nat) : (addSub h s).pcnt = s.pcnt := rfl
@[simp] theorem addSub_p0 (h : Nat) : (addSub h s).p0 = s.p0 := rfl
@[simp] theorem addSub_p1 (h : Nat) : (addSub h s).p1 = s.p1 := rfl
@[simp] theorem addSub_outRaw (h : Nat) : (addSub h s).outRaw = s.outRaw := rfl
@[simp] theorem addSub_outStb (h : Nat) : (addSub h s).outStb = s.outStb := rfl
@[simp] theorem addSub_reply (h : Nat) : (addSub h s).reply = s.reply := rfl
@[simp] theorem addSub_draws (h : Nat) : (addSub h s).draws = s.draws := rfl
@[simp] theorem addSub_trace (h : Nat) : (addSub h s).trace = s.trace := rfl

@[simp] theorem shiftIn_par (b : Bool) (t : Int) : (shiftIn b t s).par = s.par := rfl
@[simp] theorem shiftIn_created (b : Bool) (t : Int) : (shiftIn b t s).created = s.created := rfl
@[simp] theorem shiftIn_portA (b : Bool) (t : Int) : (shiftIn b t s).portA = s.portA := rfl
@[simp] theorem shiftIn_portB (b : Bool) (t : Int) : (shiftIn b t s).portB = s.portB := rfl
@[simp] theorem shiftIn_tInact (b : Bool) (t : Int) : (shiftIn b t s).tInact = s.tInact := rfl
@[simp] theorem shiftIn_acc (b : Bool) (t : Int) : (shiftIn b t s).acc = trunc s.par (shiftBit s.acc b) := rfl
@[simp] theorem shiftIn_lat (b : Bool) (t : Int) : (shiftIn b t s).lat = t := rfl
@[simp] theorem shiftIn_subs (b : Bool) (t : Int) : (shiftIn b t s).subs = s.subs := rfl
@[simp] theorem shiftIn_out (b : Bool) (t : Int) : (shiftIn b t s).out = s.out := rfl
@[simp] theorem shiftIn_fault (b : Bool) (t : Int) : (shiftIn b t s).fault = s.fault := rfl
@[simp] theorem shiftIn_now (b : Bool) (t : Int) : (shiftIn b t s).now = s.now := rfl
@[simp] theorem shiftIn_pcnt (b : Bool) (t : Int) : (shiftIn b t s).pcnt = s.pcnt := rfl
@[simp] theorem shiftIn_p0 (b : Bool) (t : Int) : (shiftIn b t s).p0 = s.p0 := rfl
@[simp] theorem shiftIn_p1 (b : Bool) (t : Int) : (shiftIn b t s).p1 = s.p1 := rfl
@[simp] theorem shiftIn_outRaw (b : Bool) (t : Int) : (shiftIn b t s).outRaw = s.outRaw := rfl
@[simp] theorem shiftIn_outStb (b : Bool) (t : Int) : (shiftIn b t s).outStb = s.outStb := rfl
@[simp] theorem shiftIn_reply (b : Bool) (t : Int) : (shiftIn b t s).reply = s.reply := rfl
@[simp] theorem shiftIn_draws (b : Bool) (t : Int) : (shiftIn b t s).draws = s.draws := rfl
@[simp] theorem shiftIn_trace (b : Bool) (t : Int) : (shiftIn b t s).trace = s.trace := rfl

@[simp] theorem emit_par (raw : Nat) : (emit raw s).par = s.par := rfl
@[simp] theorem emit_created (raw : Nat) : (emit raw s).created = s.created := rfl
@[simp] theorem emit_portA (raw : Nat) : (emit raw s).portA = s.portA := rfl
@[simp] theorem emit_portB (raw : Nat) : (emit raw s).portB = s.portB := rfl
@[simp] theorem emit_tInact (raw : Nat) : (emit raw s).tInact = s.tInact := rfl
@[simp] theorem emit_acc (raw : Nat) : (emit raw s).acc = s.acc := rfl
@[simp] theorem emit_lat (raw : Nat) : (emit raw s).lat = s.lat := rfl
@[simp] theorem emit_subs (raw : Nat) : (emit raw s).subs = s.subs := rfl
@[simp] theorem emit_out (raw : Nat) : (emit raw s).out = s.out ++ [{ raw := raw, subs := s.subs }] := rfl
@[simp] theorem emit_fault (raw : Nat) : (emit raw s).fault = s.fault := rfl
@[simp] theorem emit_now (raw : Nat) : (emit raw s).now = s.now := rfl
@[simp] theorem emit_pcnt (raw : Nat) : (emit raw s).pcnt = s.pcnt := rfl
@[simp] theorem emit_p0 (raw : Nat) : (emit raw s).p0 = s.p0 := rfl
@[simp] theorem emit_p1 (raw : Nat) : (emit raw s).p1 = s.p1 := rfl
@[simp] theorem emit_outRaw (raw : Nat) : (emit raw s).outRaw = s.outRaw := rfl
@[simp] theorem emit_outStb (raw : Nat) : (emit raw s).outStb = s.outStb := rfl
@[simp] theorem emit_reply (raw : Nat) : (emit raw s).reply = s.reply := rfl
@[simp] theorem emit_draws (raw : Nat) : (emit raw s).draws = s.draws := rfl
@[simp] theorem emit_trace (raw : Nat) : (emit raw s).trace = s.trace := rfl

@[simp] theorem finalize_par : (finalize s).par = s.par := rfl
@[simp] theorem finalize_created : (finalize s).created = s.created := rfl
@[simp] theorem finalize_portA : (finalize s).portA = s.portA := rfl
@[simp] theorem finalize_portB : (finalize s).portB = s.portB := rfl
@[simp] theorem finalize_tInact : (finalize s).tInact = s.tInact := rfl
@[simp] theorem finalize_acc : (finalize s).acc = 0 := rfl
@[simp] theorem finalize_lat : (finalize s).lat = s.lat := rfl
@[simp] theorem finalize_subs : (finalize s).subs = s.subs := rfl
@[simp] theorem finalize_out : (finalize s).out = s.out ++ [{ raw := s.acc, subs := s.subs }] := rfl
@[simp] theorem finalize_fault : (finalize s).fault = s.fault := rfl
@[simp] theorem finalize_now : (finalize s).now = s.now := rfl
@[simp] theorem finalize_pcnt : (finalize s).pcnt = s.pcnt := rfl
@[simp] theorem finalize_p0 : (finalize s).p0 = s.p0 := rfl
@[simp] theorem finalize_p1 : (finalize s).p1 = s.p1 := rfl
@[simp] theorem finalize_outRaw : (finalize s).outRaw = s.outRaw := rfl
@[simp] theorem finalize_outStb : (finalize s).outStb = s.outStb := rfl
@[simp] theorem finalize_reply : (finalize s).reply = s.reply := rfl
@[simp] theorem finalize_draws : (finalize s).draws = s.draws := rfl
@[simp] theorem finalize_trace : (finalize s).trace = s.trace := rfl

@[simp] theorem raiseInvalidPort_par (p : Nat) : (raiseInvalidPort p s).par = s.par := rfl
@[simp] theorem raiseInvalidPort_created (p : Nat) : (raiseInvalidPort p s).created = s.created := rfl
@[simp] theorem raiseInvalidPort_portA (p : Nat) : (raiseInvalidPort p s).portA = s.portA := rfl
@[simp] theorem raiseInvalidPort_portB (p : Nat) : (raiseInvalidPort p s).portB = s.portB := rfl
@[simp] theorem raiseInvalidPort_tInact (p : Nat) : (raiseInvalidPort p s).tInact = s.tInact := rfl
@[simp] theorem raiseInvalidPort_acc (p : Nat) : (raiseInvalidPort p s).acc = s.acc := rfl
@[simp] theorem raiseInvalidPort_lat (p : Nat) : (raiseInvalidPort p s).lat = s.lat := rfl
@[simp] theorem raiseInvalidPort_subs (p : Nat) : (raiseInvalidPort p s).subs = s.subs := rfl
@[simp] theorem raiseInvalidPort_out (p : Nat) : (raiseInvalidPort p s).out = s.out := rfl
@[simp] theorem raiseInvalidPort_fault (p : Nat) : (raiseInvalidPort p s).fault = .invalidPort p := rfl
@[simp] theorem raiseInvalidPort_now (p : Nat) : (raiseInvalidPort p s).now = s.now := rfl
@[simp] theorem raiseInvalidPort_pcnt (p : Nat) : (raiseInvalidPort p s).pcnt = s.pcnt := rfl
@[simp] theorem raiseInvalidPort_p0 (p : Nat) : (raiseInvalidPort p s).p0 = s.p0 := rfl
@[simp] theorem raiseInvalidPort_p1 (p : Nat) : (raiseInvalidPort p s).p1 = s.p1 := rfl
@[simp] theorem raiseInvalidPort_outRaw (p : Nat) : (raiseInvalidPort p s).outRaw = s.outRaw := rfl
@[simp] theorem raiseInvalidPort_outStb (p : Nat) : (raiseInvalidPort p s).outStb = s.outStb := rfl
@[simp] theorem raiseInvalidPort_reply (p : Nat) : (raiseInvalidPort p s).reply = s.reply := rfl
@[simp] theorem raiseInvalidPort_draws (p : Nat) : (raiseInvalidPort p s).draws = s.draws := rfl
@[simp] theorem raiseInvalidPort_trace (p : Nat) : (raiseInvalidPort p s).trace = s.trace := rfl

@[simp] theorem raiseConfiguration_par (c : ConfigCause) : (raiseConfiguration c s).par = s.par := rfl
@[simp] theorem raiseConfiguration_created (c : ConfigCause) : (raiseConfiguration c s).created = true := rfl
@[simp] theorem raiseConfiguration_portA (c : ConfigCause) : (raiseConfiguration c s).portA = s.portA := rfl
@[simp] theorem raiseConfiguration_portB (c : ConfigCause) : (raiseConfiguration c s).portB = s.portB := rfl
@[simp] theorem raiseConfiguration_tInact (c : ConfigCause) : (raiseConfiguration c s).tInact = s.tInact := rfl
@[simp] theorem raiseConfiguration_acc (c : ConfigCause) : (raiseConfiguration c s).acc = s.acc := rfl
@[simp] theorem raiseConfiguration_lat (c : ConfigCause) : (raiseConfiguration c s).lat = s.lat := rfl
@[simp] theorem raiseConfiguration_subs (c : ConfigCause) : (raiseConfiguration c s).subs = [] := rfl
@[simp] theorem raiseConfiguration_out (c : ConfigCause) : (raiseConfiguration c s).out = [] := rfl
@[simp] theorem raiseConfiguration_fault (c : ConfigCause) : (raiseConfiguration c s).fault = .configurationError c := rfl
@[simp] theorem raiseConfiguration_now (c : ConfigCause) : (raiseConfiguration c s).now = s.now := rfl
@[simp] theorem raiseConfiguration_pcnt (c : ConfigCause) : (raiseConfiguration c s).pcnt = s.pcnt := rfl
@[simp] theorem raiseConfiguration_p0 (c : ConfigCause) : (raiseConfiguration c s).p0 = s.p0 := rfl
@[simp] theorem raiseConfiguration_p1 (c : ConfigCause) : (raiseConfiguration c s).p1 = s.p1 := rfl
@[simp] theorem raiseConfiguration_outRaw (c : ConfigCause) : (raiseConfiguration c s).outRaw = s.outRaw := rfl
@[simp] theorem raiseConfiguration_outStb (c : ConfigCause) : (raiseConfiguration c s).outStb = s.outStb := rfl
@[simp] theorem raiseConfiguration_reply (c : ConfigCause) : (raiseConfiguration c s).reply = s.reply := rfl
@[simp] theorem raiseConfiguration_draws (c : ConfigCause) : (raiseConfiguration c s).draws = s.draws := rfl
@[simp] theorem raiseConfiguration_trace (c : ConfigCause) : (raiseConfiguration c s).trace = s.trace := rfl

@[simp] theorem countDraw_par : (countDraw s).par = s.par := rfl
@[simp] theorem countDraw_created : (countDraw s).created = s.created := rfl
@[simp] theorem countDraw_portA : (countDraw s).portA = s.portA := rfl
@[simp] theorem countDraw_portB : (countDraw s).portB = s.portB := rfl
@[simp] theorem countDraw_tInact : (countDraw s).tInact = s.tInact := rfl
@[simp] theorem countDraw_acc : (countDraw s).acc = s.acc := rfl
@[simp] theorem countDraw_lat : (countDraw s).lat = s.lat := rfl
@[simp] theorem countDraw_subs : (countDraw s).subs = s.subs := rfl
@[simp] theorem countDraw_out : (countDraw s).out = s.out := rfl
@[simp] theorem countDraw_fault : (countDraw s).fault = s.fault := rfl
@[simp] theorem countDraw_now : (countDraw s).now = s.now := rfl
@[simp] theorem countDraw_pcnt : (countDraw s).pcnt = s.pcnt := rfl
@[simp] theorem countDraw_p0 : (countDraw s).p0 = s.p0 := rfl
@[simp] theorem countDraw_p1 : (countDraw s).p1 = s.p1 := rfl
@[simp] theorem countDraw_outRaw : (countDraw s).outRaw = s.outRaw := rfl
@[simp] theorem countDraw_outStb : (countDraw s).outStb = s.outStb := rfl
@[simp] theorem countDraw_reply : (countDraw s).reply = s.reply := rfl
@[simp] theorem countDraw_draws : (countDraw s).draws = s.draws + 1 := rfl
@[simp] theorem countDraw_trace : (countDraw s).trace = s.trace := rfl

@[simp] theorem clearStrobe_par : (clearStrobe s).par = s.par := rfl
@[simp] theorem clearStrobe_created : (clearStrobe s).created = s.created := rfl
@[simp] theorem clearStrobe_portA : (clearStrobe s).portA = s.portA := rfl
@[simp] theorem clearStrobe_portB : (clearStrobe s).portB = s.portB := rfl
@[simp] theorem clearStrobe_tInact : (clearStrobe s).tInact = s.tInact := rfl
@[simp] theorem clearStrobe_acc : (clearStrobe s).acc = s.acc := rfl
@[simp] theorem clearStrobe_lat : (clearStrobe s).lat = s.lat := rfl
@[simp] theorem clearStrobe_subs : (clearStrobe s).subs = s.subs := rfl
@[simp] theorem clearStrobe_out : (clearStrobe s).out = s.out := rfl
@[simp] theorem clearStrobe_fault : (clearStrobe s).fault = s.fault := rfl
@[simp] theorem clearStrobe_now : (clearStrobe s).now = s.now := rfl
@[simp] theorem clearStrobe_pcnt : (clearStrobe s).pcnt = s.pcnt := rfl
@[simp] theorem clearStrobe_p0 : (clearStrobe s).p0 = s.p0 := rfl
@[simp] theorem clearStrobe_p1 : (clearStrobe s).p1 = s.p1 := rfl
@[simp] theorem clearStrobe_outRaw : (clearStrobe s).outRaw = s.outRaw := rfl
@[simp] theorem clearStrobe_outStb : (clearStrobe s).outStb = false := rfl
@[simp] theorem clearStrobe_reply : (clearStrobe s).reply = s.reply := rfl
@[simp] theorem clearStrobe_draws : (clearStrobe s).draws = s.draws := rfl
@[simp] theorem clearStrobe_trace : (clearStrobe s).trace = s.trace := rfl

@[simp] theorem finalizeToPins_par : (finalizeToPins s).par = s.par := rfl
@[simp] theorem finalizeToPins_created : (finalizeToPins s).created = s.created := rfl
@[simp] theorem finalizeToPins_portA : (finalizeToPins s).portA = s.portA := rfl
@[simp] theorem finalizeToPins_portB : (finalizeToPins s).portB = s.portB := rfl
@[simp] theorem finalizeToPins_tInact : (finalizeToPins s).tInact = s.tInact := rfl
@[simp] theorem finalizeToPins_acc : (finalizeToPins s).acc = 0 := rfl
@[simp] theorem finalizeToPins_lat : (finalizeToPins s).lat = s.lat := rfl
@[simp] theorem finalizeToPins_subs : (finalizeToPins s).subs = s.subs := rfl
@[simp] theorem finalizeToPins_out : (finalizeToPins s).out = s.out ++ [{ raw := s.acc, subs := s.subs }] := rfl
@[simp] theorem finalizeToPins_fault : (finalizeToPins s).fault = s.fault := rfl
@[simp] theorem finalizeToPins_now : (finalizeToPins s).now = s.now := rfl
@[simp] theorem finalizeToPins_pcnt : (finalizeToPins s).pcnt = s.pcnt := rfl
@[simp] theorem finalizeToPins_p0 : (finalizeToPins s).p0 = s.p0 := rfl
@[simp] theorem finalizeToPins_p1 : (finalizeToPins s).p1 = s.p1 := rfl
@[simp] theorem finalizeToPins_outRaw : (finalizeToPins s).outRaw = s.acc := rfl
@[simp] theorem finalizeToPins_outStb : (finalizeToPins s).outStb = true := rfl
@[simp] theorem finalizeToPins_reply : (finalizeToPins s).reply = s.reply := rfl
@[simp] theorem finalizeToPins_draws : (finalizeToPins s).draws = s.draws := rfl
@[simp] theorem finalizeToPins_trace : (finalizeToPins s).trace = s.trace := rfl

@[simp] theorem advance_par (d1n d0n : Bool) : (advance d1n d0n s).par = s.par := rfl
@[simp] theorem advance_created (d1n d0n : Bool) : (advance d1n d0n s).created = s.created := rfl
@[simp] theorem advance_portA (d1n d0n : Bool) : (advance d1n d0n s).portA = s.portA := rfl
@[simp] theorem advance_portB (d1n d0n : Bool) : (advance d1n d0n s).portB = s.portB := rfl
@[simp] theorem advance_tInact (d1n d0n : Bool) : (advance d1n d0n s).tInact = s.tInact := rfl
@[simp] theorem advance_acc (d1n d0n : Bool) : (advance d1n d0n s).acc = s.acc := rfl
@[simp] theorem advance_lat (d1n d0n : Bool) : (advance d1n d0n s).lat = s.lat := rfl
@[simp] theorem advance_subs (d1n d0n : Bool) : (advance d1n d0n s).subs = s.subs := rfl
@[simp] theorem advance_out (d1n d0n : Bool) : (advance d1n d0n s).out = s.out := rfl
@[simp] theorem advance_fault (d1n d0n : Bool) : (advance d1n d0n s).fault = s.fault := rfl
@[simp] theorem advance_now (d1n d0n : Bool) : (advance d1n d0n s).now = (s.now + 1) % 2 ^ s.par.tsW := rfl
@[simp] theorem advance_pcnt (d1n d0n : Bool) : (advance d1n d0n s).pcnt = if tickDue s then s.par.tPoll - 1 else s.pcnt - 1 := rfl
@[simp] theorem advance_p0 (d1n d0n : Bool) : (advance d1n d0n s).p0 = d0n := rfl
@[simp] theorem advance_p1 (d1n d0n : Bool) : (advance d1n d0n s).p1 = d1n := rfl
@[simp] theorem advance_outRaw (d1n d0n : Bool) : (advance d1n d0n s).outRaw = s.outRaw := rfl
@[simp] theorem advance_outStb (d1n d0n : Bool) : (advance d1n d0n s).outStb = s.outStb := rfl
@[simp] theorem advance_reply (d1n d0n : Bool) : (advance d1n d0n s).reply = s.reply := rfl
@[simp] theorem advance_draws (d1n d0n : Bool) : (advance d1n d0n s).draws = s.draws := rfl
@[simp] theorem advance_trace (d1n d0n : Bool) : (advance d1n d0n s).trace = s.trace := rfl

@[simp] theorem freshBlock_par (a b : Nat) (timeout lat : Int) : (freshBlock a b timeout lat s).par = s.par := rfl
@[simp] theorem freshBlock_created (a b : Nat) (timeout lat : Int) : (freshBlock a b timeout lat s).created = true := rfl
@[simp] theorem freshBlock_portA (a b : Nat) (timeout lat : Int) : (freshBlock a b timeout lat s).portA = a := rfl
@[simp] theorem freshBlock_portB (a b : Nat) (timeout lat : Int) : (freshBlock a b timeout lat s).portB = b := rfl
@[simp] theorem freshBlock_tInact (a b : Nat) (timeout lat : Int) : (freshBlock a b timeout lat s).tInact = timeout := rfl
@[simp] theorem freshBlock_acc (a b : Nat) (timeout lat : Int) : (freshBlock a b timeout lat s).acc = 0 := rfl
@[simp] theorem freshBlock_lat (a b : Nat) (timeout lat : Int) : (freshBlock a b timeout lat s).lat = lat := rfl
@[simp] theorem freshBlock_subs (a b : Nat) (timeout lat : Int) : (freshBlock a b timeout lat s).subs = [] := rfl
@[simp] theorem freshBlock_out (a b : Nat) (timeout lat : Int) : (freshBlock a b timeout lat s).out = [] := rfl
@[simp] theorem freshBlock_fault (a b : Nat) (timeout lat : Int) : (freshBlock a b timeout lat s).fault = .none := rfl
@[simp] theorem freshBlock_now (a b : Nat) (timeout lat : Int) : (freshBlock a b timeout lat s).now = 0 := rfl
@[simp] theorem freshBlock_pcnt (a b : Nat) (timeout lat : Int) : (freshBlock a b timeout lat s).pcnt = s.par.tPoll - 1 := rfl
@[simp] theorem freshBlock_p0 (a b : Nat) (timeout lat : Int) : (freshBlock a b timeout lat s).p0 = false := rfl
@[simp] theorem freshBlock_p1 (a b : Nat) (timeout lat : Int) : (freshBlock a b timeout lat s).p1 = false := rfl
@[simp] theorem freshBlock_outRaw (a b : Nat) (timeout lat : Int) : (freshBlock a b timeout lat s).outRaw = 0 := rfl
@[simp] theorem freshBlock_outStb (a b : Nat) (timeout lat : Int) : (freshBlock a b timeout lat s).outStb = false := rfl
@[simp] theorem freshBlock_reply (a b : Nat) (timeout lat : Int) : (freshBlock a b timeout lat s).reply = s.reply := rfl
@[simp] theorem freshBlock_draws (a b : Nat) (timeout lat : Int) : (freshBlock a b timeout lat s).draws = s.draws := rfl
@[simp] theorem freshBlock_trace (a b : Nat) (timeout lat : Int) : (freshBlock a b timeout lat s).trace = s.trace := rfl

end

end Sys2Proof.Machine
end

