-- ==== Sys2Proof/Laws/Exec.lean ====
section
/-! SUPPORT. What each operation can answer, said once: the guard of R117, CREATE, and one lemma that lists the next
states of every operation. -/

namespace Sys2Proof.Machine

open Sys2Proof.Safety

theorem live_iff (s : State) : live s = true ↔ s.created = true ∧ halted s = false := by
  simp [live]

theorem halted_iff (s : State) : halted s = true ↔ s.fault ≠ .none := by simp [halted]

theorem not_halted_iff (s : State) : halted s = false ↔ s.fault = .none := by simp [halted]

/-- R100: in a running block a guarded operation is its writes. -/
theorem whenLive_of_live {s : State} (h : live s = true) (w : State → State) : whenLive s w = .next (w s) := by
  have h' := (live_iff s).1 h
  simp [whenLive, h'.1, h'.2]

/-- R117: a halted block ignores a guarded operation. -/
theorem whenLive_of_halted {s : State} (hc : s.created = true) (h : halted s = true) (w : State → State) :
    whenLive s w = .next s := by simp [whenLive, hc, h]

/-- R117: before the first CREATE a guarded operation is refused. -/
theorem whenLive_of_uncreated {s : State} (hc : s.created = false) (w : State → State) :
    whenLive s w = .refused .beforeCreate := by simp [whenLive, hc]

/-- What a guarded operation can answer as a next state. -/
theorem whenLive_next {s s' : State} {w : State → State} (h : whenLive s w = .next s') :
    s.created = true ∧ (halted s = true ∧ s' = s ∨ live s = true ∧ s' = w s) := by
  unfold whenLive at h
  split at h
  · cases h
  · rename_i hc
    have hc' : s.created = true := by simpa using hc
    refine ⟨hc', ?_⟩
    split at h
    · cases h; exact .inl ⟨‹_›, rfl⟩
    · rename_i hh; cases h
      exact .inr ⟨(live_iff s).2 ⟨hc', by simpa using hh⟩, rfl⟩

/-- R101: what CREATE can answer as a next state. -/
theorem execCreate_next {src0 src1 : Option Nat} {timeout : Option Int} {s s' : State}
    (h : execCreate src0 src1 timeout s = .next s') :
    configValid s.par = true ∧
    ((∃ cause, createCause s.par src0 src1 timeout = some cause ∧ s' = raiseConfiguration cause s) ∨
     (createCause s.par src0 src1 timeout = none ∧
       s' = countDraw (freshBlock (src0.getD 0) (src1.getD 0) (timeoutArg s.par timeout) (drawLat s) s))) := by
  unfold execCreate at h
  split at h
  · cases h
  · rename_i hv
    refine ⟨by simpa using hv, ?_⟩
    split at h
    · rename_i cause hc; cases h; exact .inl ⟨cause, hc, rfl⟩
    · rename_i hc; cases h; exact .inr ⟨hc, rfl⟩

/-- R101: a CREATE that meets no cause has two present, distinct sources and a positive timeout. -/
theorem createCause_none {par : Config} {src0 src1 : Option Nat} {timeout : Option Int}
    (h : createCause par src0 src1 timeout = none) :
    ∃ a b, src0 = some a ∧ src1 = some b ∧ a ≠ b ∧ 0 < timeoutArg par timeout := by
  unfold createCause at h
  cases src0 with
  | none => simp at h
  | some a =>
    cases src1 with
    | none => simp at h
    | some b =>
      refine ⟨a, b, rfl, rfl, ?_⟩
      simp at h
      split at h
      · cases h
      · rename_i hab
        split at h
        · cases h
        · exact ⟨hab, by omega⟩

/-- R157: what CYCLE can answer as a next state. -/
theorem execCycle_next {rst d1n d0n : Bool} {s s' : State} (h : execCycle rst d1n d0n s = .next s') :
    bindingValid s.par = true ∧
    (rst = true ∧ s' = resetCycle s ∨
     rst = false ∧ halted s = true ∧ s' = clearStrobe s ∨
     rst = false ∧ halted s = false ∧ s' = liveCycle d1n d0n s) := by
  unfold execCycle at h
  split at h
  · cases h
  · rename_i hv
    refine ⟨by simpa using hv, ?_⟩
    cases rst with
    | true => simp at h; exact .inl ⟨rfl, h.symm⟩
    | false =>
      simp at h
      split at h
      · rename_i hh; cases h; exact .inr (.inl ⟨rfl, hh, rfl⟩)
      · rename_i hh; cases h; exact .inr (.inr ⟨rfl, by simpa using hh, rfl⟩)

theorem execCycle_live {s : State} (hv : bindingValid s.par = true) (hh : halted s = false) (d1n d0n : Bool) :
    exec (.cycle false d1n d0n) s = .next (liveCycle d1n d0n s) := by
  simp [exec, execCycle, hv, hh]

/-- R27. -/
theorem fire_iff (s : State) (now : Int) : fire s now = true ↔ s.acc ≠ 0 ∧ s.tInact < now - s.lat := by
  simp [fire, idle, expired]

/-- R157, R162. -/
theorem fireMod_iff (s : State) :
    fireMod s = true ↔ s.acc ≠ 0 ∧ s.tInact < ((s.now : Int) - s.lat) % 2 ^ s.par.tsW := by
  simp [fireMod, idle, expiredMod]

/-- The writes of an operation of the frame decoder other than CREATE, `none` for the others. -/
def frameWrite : Instr → Option (State → State)
  | .subscribe h => some (addSub h)
  | .edge p t => some (edgeOn p t)
  | .edge0 t => some (shiftIn false t)
  | .edge1 t => some (shiftIn true t)
  | .edgex p _ => some (raiseInvalidPort p)
  | .tick now => some (pollTick now)
  | _ => none

/-- R100: those operations are their writes under the guard. -/
theorem exec_frameWrite {i : Instr} {w : State → State} (h : frameWrite i = some w) (s : State) :
    exec i s = whenLive s w := by
  cases i <;> simp [frameWrite] at h <;> subst h <;> rfl

/-- EDGE writes as the resolved edge that equality of ports selects (R104). -/
theorem edgeOn_cases (p : Nat) (t : Int) (s : State) :
    (p = s.portA ∧ edgeOn p t s = shiftIn false t s) ∨
    (p ≠ s.portA ∧ p = s.portB ∧ edgeOn p t s = shiftIn true t s) ∨
    (p ≠ s.portA ∧ p ≠ s.portB ∧ edgeOn p t s = raiseInvalidPort p s) := by
  by_cases ha : p = s.portA
  · exact .inl ⟨ha, by rw [edgeOn, if_pos ha]⟩
  · by_cases hb : p = s.portB
    · exact .inr (.inl ⟨ha, hb, by rw [edgeOn, if_neg ha, if_pos hb]⟩)
    · exact .inr (.inr ⟨ha, hb, by rw [edgeOn, if_neg ha, if_neg hb]⟩)

/-- TICK writes as its finalize branch or not at all (R108 to R110). -/
theorem pollTick_cases (now : Int) (s : State) :
    (s.acc ≠ 0 ∧ s.tInact < now - s.lat ∧ pollTick now s = finalize s) ∨
    ((s.acc = 0 ∨ now - s.lat ≤ s.tInact) ∧ pollTick now s = s) := by
  unfold pollTick fire idle expired
  by_cases ha : s.acc = 0
  · exact .inr ⟨.inl ha, by simp [ha]⟩
  · by_cases ht : s.tInact < now - s.lat
    · exact .inl ⟨ha, ht, by simp [ha, ht]⟩
    · exact .inr ⟨.inr (by omega), by simp [ht]⟩

/-- Every operation's next states: a frame decoder operation under its guard, CREATE, a clock cycle, or one that writes
at most the answer of a query. -/
theorem exec_next {i : Instr} {s s' : State} (h : exec i s = .next s') :
    (∃ w, frameWrite i = some w ∧ s.created = true ∧
      (halted s = true ∧ s' = s ∨ live s = true ∧ s' = w s)) ∨
    (∃ a b t, i = .create a b t ∧ execCreate a b t s = .next s') ∨
    (∃ r x y, i = .cycle r x y ∧ execCycle r x y s = .next s') ∨
    (frameWrite i = none ∧ (∃ r, s' = { s with reply := r })) := by
  cases i
  case create a b t => exact .inr (.inl ⟨a, b, t, rfl, h⟩)
  case cycle r x y => exact .inr (.inr (.inl ⟨r, x, y, rfl, h⟩))
  case nop => cases h; exact .inr (.inr (.inr ⟨rfl, s.reply, rfl⟩))
  case fromraw | lpb | fc | cn | tpb | isvalid | tostring =>
    cases h; exact .inr (.inr (.inr ⟨rfl, _, rfl⟩))
  all_goals exact .inl ⟨_, rfl, whenLive_next h⟩

end Sys2Proof.Machine
end

