-- ==== Sys2Proof/Laws/Binding.lean ====
section
/-! SUPPORT. What a clock cycle can do, said once: the events it applies, their order, the fields they leave alone, and
every field after a live cycle in terms of the events applied. -/

namespace Sys2Proof.Machine

open Sys2Proof.Safety

/-! ### The events of a cycle (R164) -/

theorem slotList_perm (o : SlotOrder) : (slotList o).Perm [.edge0, .edge1, .tick] := by
  cases o <;> decide

/-- R164: the events of a cycle are those whose conditions hold, each once. -/
theorem cycleEvents_perm (s : State) (d1n d0n : Bool) :
    (cycleEvents s d1n d0n).Perm
      ([CycleEvent.edge0, .edge1, .tick].filter (present (fell0 s d0n) (fell1 s d1n) (tickDue s))) :=
  (slotList_perm _).filter _

theorem cycleEvents_nodup (s : State) (d1n d0n : Bool) : (cycleEvents s d1n d0n).Nodup :=
  (cycleEvents_perm s d1n d0n).nodup_iff.2 ((by decide : [CycleEvent.edge0, .edge1, .tick].Nodup).filter _)

theorem mem_cycleEvents (s : State) (d1n d0n : Bool) (e : CycleEvent) :
    e ∈ cycleEvents s d1n d0n ↔ present (fell0 s d0n) (fell1 s d1n) (tickDue s) e = true := by
  rw [(cycleEvents_perm s d1n d0n).mem_iff]; cases e <;> simp [present]

/-- A property that clearing the strobe gives and every event keeps holds after the events of a cycle. -/
theorem cycleApplied_induct {P : State → Prop} {s : State} (d1n d0n : Bool) (h0 : P (clearStrobe s))
    (hstep : ∀ t e, P t → P (applyCycleEvent t e)) : P (cycleApplied d1n d0n s) := by
  unfold cycleApplied
  generalize cycleEvents s d1n d0n = l
  generalize clearStrobe s = t at h0
  induction l generalizing t with
  | nil => exact h0
  | cons e l ih => exact ih _ (hstep _ _ h0)

/-! ### The fields an event of a cycle leaves alone -/

@[simp] theorem applyCycleEvent_par (s : State) (e : CycleEvent) : (applyCycleEvent s e).par = s.par := by
  cases e <;> simp [applyCycleEvent]; split <;> rfl

@[simp] theorem applyCycleEvent_created (s : State) (e : CycleEvent) : (applyCycleEvent s e).created = s.created := by
  cases e <;> simp [applyCycleEvent]; split <;> rfl

@[simp] theorem applyCycleEvent_portA (s : State) (e : CycleEvent) : (applyCycleEvent s e).portA = s.portA := by
  cases e <;> simp [applyCycleEvent]; split <;> rfl

@[simp] theorem applyCycleEvent_portB (s : State) (e : CycleEvent) : (applyCycleEvent s e).portB = s.portB := by
  cases e <;> simp [applyCycleEvent]; split <;> rfl

@[simp] theorem applyCycleEvent_tInact (s : State) (e : CycleEvent) : (applyCycleEvent s e).tInact = s.tInact := by
  cases e <;> simp [applyCycleEvent]; split <;> rfl

@[simp] theorem applyCycleEvent_subs (s : State) (e : CycleEvent) : (applyCycleEvent s e).subs = s.subs := by
  cases e <;> simp [applyCycleEvent]; split <;> rfl

@[simp] theorem applyCycleEvent_fault (s : State) (e : CycleEvent) : (applyCycleEvent s e).fault = s.fault := by
  cases e <;> simp [applyCycleEvent]; split <;> rfl

@[simp] theorem applyCycleEvent_now (s : State) (e : CycleEvent) : (applyCycleEvent s e).now = s.now := by
  cases e <;> simp [applyCycleEvent]; split <;> rfl

@[simp] theorem applyCycleEvent_pcnt (s : State) (e : CycleEvent) : (applyCycleEvent s e).pcnt = s.pcnt := by
  cases e <;> simp [applyCycleEvent]; split <;> rfl

@[simp] theorem applyCycleEvent_p0 (s : State) (e : CycleEvent) : (applyCycleEvent s e).p0 = s.p0 := by
  cases e <;> simp [applyCycleEvent]; split <;> rfl

@[simp] theorem applyCycleEvent_p1 (s : State) (e : CycleEvent) : (applyCycleEvent s e).p1 = s.p1 := by
  cases e <;> simp [applyCycleEvent]; split <;> rfl

@[simp] theorem applyCycleEvent_reply (s : State) (e : CycleEvent) : (applyCycleEvent s e).reply = s.reply := by
  cases e <;> simp [applyCycleEvent]; split <;> rfl

@[simp] theorem applyCycleEvent_draws (s : State) (e : CycleEvent) : (applyCycleEvent s e).draws = s.draws := by
  cases e <;> simp [applyCycleEvent]; split <;> rfl

@[simp] theorem applyCycleEvent_trace (s : State) (e : CycleEvent) : (applyCycleEvent s e).trace = s.trace := by
  cases e <;> simp [applyCycleEvent]; split <;> rfl

/-! ### The fields the events of a cycle leave alone -/

@[simp] theorem cycleApplied_par (d1n d0n : Bool) (s : State) : (cycleApplied d1n d0n s).par = s.par :=
  cycleApplied_induct (P := fun t => t.par = s.par) d1n d0n rfl (fun t e h => by simpa using h)

@[simp] theorem cycleApplied_created (d1n d0n : Bool) (s : State) : (cycleApplied d1n d0n s).created = s.created :=
  cycleApplied_induct (P := fun t => t.created = s.created) d1n d0n rfl (fun t e h => by simpa using h)

@[simp] theorem cycleApplied_portA (d1n d0n : Bool) (s : State) : (cycleApplied d1n d0n s).portA = s.portA :=
  cycleApplied_induct (P := fun t => t.portA = s.portA) d1n d0n rfl (fun t e h => by simpa using h)

@[simp] theorem cycleApplied_portB (d1n d0n : Bool) (s : State) : (cycleApplied d1n d0n s).portB = s.portB :=
  cycleApplied_induct (P := fun t => t.portB = s.portB) d1n d0n rfl (fun t e h => by simpa using h)

@[simp] theorem cycleApplied_tInact (d1n d0n : Bool) (s : State) : (cycleApplied d1n d0n s).tInact = s.tInact :=
  cycleApplied_induct (P := fun t => t.tInact = s.tInact) d1n d0n rfl (fun t e h => by simpa using h)

@[simp] theorem cycleApplied_subs (d1n d0n : Bool) (s : State) : (cycleApplied d1n d0n s).subs = s.subs :=
  cycleApplied_induct (P := fun t => t.subs = s.subs) d1n d0n rfl (fun t e h => by simpa using h)

@[simp] theorem cycleApplied_fault (d1n d0n : Bool) (s : State) : (cycleApplied d1n d0n s).fault = s.fault :=
  cycleApplied_induct (P := fun t => t.fault = s.fault) d1n d0n rfl (fun t e h => by simpa using h)

@[simp] theorem cycleApplied_now (d1n d0n : Bool) (s : State) : (cycleApplied d1n d0n s).now = s.now :=
  cycleApplied_induct (P := fun t => t.now = s.now) d1n d0n rfl (fun t e h => by simpa using h)

@[simp] theorem cycleApplied_pcnt (d1n d0n : Bool) (s : State) : (cycleApplied d1n d0n s).pcnt = s.pcnt :=
  cycleApplied_induct (P := fun t => t.pcnt = s.pcnt) d1n d0n rfl (fun t e h => by simpa using h)

@[simp] theorem cycleApplied_p0 (d1n d0n : Bool) (s : State) : (cycleApplied d1n d0n s).p0 = s.p0 :=
  cycleApplied_induct (P := fun t => t.p0 = s.p0) d1n d0n rfl (fun t e h => by simpa using h)

@[simp] theorem cycleApplied_p1 (d1n d0n : Bool) (s : State) : (cycleApplied d1n d0n s).p1 = s.p1 :=
  cycleApplied_induct (P := fun t => t.p1 = s.p1) d1n d0n rfl (fun t e h => by simpa using h)

@[simp] theorem cycleApplied_reply (d1n d0n : Bool) (s : State) : (cycleApplied d1n d0n s).reply = s.reply :=
  cycleApplied_induct (P := fun t => t.reply = s.reply) d1n d0n rfl (fun t e h => by simpa using h)

@[simp] theorem cycleApplied_draws (d1n d0n : Bool) (s : State) : (cycleApplied d1n d0n s).draws = s.draws :=
  cycleApplied_induct (P := fun t => t.draws = s.draws) d1n d0n rfl (fun t e h => by simpa using h)

@[simp] theorem cycleApplied_trace (d1n d0n : Bool) (s : State) : (cycleApplied d1n d0n s).trace = s.trace :=
  cycleApplied_induct (P := fun t => t.trace = s.trace) d1n d0n rfl (fun t e h => by simpa using h)

/-! ### Every field after a live cycle (R157) -/

section

variable (d1n d0n : Bool) (s : State)

theorem liveCycle_eq : ∃ n, liveCycle d1n d0n s = advance d1n d0n { cycleApplied d1n d0n s with draws := n } := by
  unfold liveCycle; dsimp only; split
  · exact ⟨_, rfl⟩
  · exact ⟨_, rfl⟩

@[simp] theorem liveCycle_par : (liveCycle d1n d0n s).par = s.par := by
  obtain ⟨n, h⟩ := liveCycle_eq d1n d0n s; simp [h]

@[simp] theorem liveCycle_created : (liveCycle d1n d0n s).created = s.created := by
  obtain ⟨n, h⟩ := liveCycle_eq d1n d0n s; simp [h]

@[simp] theorem liveCycle_portA : (liveCycle d1n d0n s).portA = s.portA := by
  obtain ⟨n, h⟩ := liveCycle_eq d1n d0n s; simp [h]

@[simp] theorem liveCycle_portB : (liveCycle d1n d0n s).portB = s.portB := by
  obtain ⟨n, h⟩ := liveCycle_eq d1n d0n s; simp [h]

@[simp] theorem liveCycle_tInact : (liveCycle d1n d0n s).tInact = s.tInact := by
  obtain ⟨n, h⟩ := liveCycle_eq d1n d0n s; simp [h]

@[simp] theorem liveCycle_subs : (liveCycle d1n d0n s).subs = s.subs := by
  obtain ⟨n, h⟩ := liveCycle_eq d1n d0n s; simp [h]

@[simp] theorem liveCycle_fault : (liveCycle d1n d0n s).fault = s.fault := by
  obtain ⟨n, h⟩ := liveCycle_eq d1n d0n s; simp [h]

@[simp] theorem liveCycle_reply : (liveCycle d1n d0n s).reply = s.reply := by
  obtain ⟨n, h⟩ := liveCycle_eq d1n d0n s; simp [h]

@[simp] theorem liveCycle_trace : (liveCycle d1n d0n s).trace = s.trace := by
  obtain ⟨n, h⟩ := liveCycle_eq d1n d0n s; simp [h]

theorem liveCycle_acc : (liveCycle d1n d0n s).acc = (cycleApplied d1n d0n s).acc := by
  obtain ⟨n, h⟩ := liveCycle_eq d1n d0n s; simp [h]

theorem liveCycle_lat : (liveCycle d1n d0n s).lat = (cycleApplied d1n d0n s).lat := by
  obtain ⟨n, h⟩ := liveCycle_eq d1n d0n s; simp [h]

theorem liveCycle_out : (liveCycle d1n d0n s).out = (cycleApplied d1n d0n s).out := by
  obtain ⟨n, h⟩ := liveCycle_eq d1n d0n s; simp [h]

theorem liveCycle_outRaw : (liveCycle d1n d0n s).outRaw = (cycleApplied d1n d0n s).outRaw := by
  obtain ⟨n, h⟩ := liveCycle_eq d1n d0n s; simp [h]

theorem liveCycle_outStb : (liveCycle d1n d0n s).outStb = (cycleApplied d1n d0n s).outStb := by
  obtain ⟨n, h⟩ := liveCycle_eq d1n d0n s; simp [h]

@[simp] theorem liveCycle_p0 : (liveCycle d1n d0n s).p0 = d0n := by
  obtain ⟨n, h⟩ := liveCycle_eq d1n d0n s; simp [h]

@[simp] theorem liveCycle_p1 : (liveCycle d1n d0n s).p1 = d1n := by
  obtain ⟨n, h⟩ := liveCycle_eq d1n d0n s; simp [h]

@[simp] theorem liveCycle_now : (liveCycle d1n d0n s).now = (s.now + 1) % 2 ^ s.par.tsW := by
  obtain ⟨n, h⟩ := liveCycle_eq d1n d0n s; simp [h]

@[simp] theorem liveCycle_pcnt : (liveCycle d1n d0n s).pcnt = if s.pcnt = 0 then s.par.tPoll - 1 else s.pcnt - 1 := by
  obtain ⟨n, h⟩ := liveCycle_eq d1n d0n s; simp [h, tickDue]

/-- The draw counter moves when the order of the cycle was drawn. -/
theorem liveCycle_draws : (liveCycle d1n d0n s).draws = if orderDrawn s d1n d0n then s.draws + 1 else s.draws := by
  unfold liveCycle; dsimp only; split <;> simp

end

/-! ### What the events of a cycle do to ACC, LAT and OUT -/

/-- R157: at most one event of a cycle finalizes, so OUT grows by at most one event. -/
theorem cycleApplied_out (d1n d0n : Bool) (s : State) :
    (cycleApplied d1n d0n s).out = s.out ∨
      ∃ e, (cycleApplied d1n d0n s).out = s.out ++ [e] ∧ e.subs = s.subs := by
  unfold cycleApplied
  suffices h : ∀ (l : List CycleEvent) (t : State), l.Nodup →
      (CycleEvent.tick ∉ l → (l.foldl applyCycleEvent t).out = t.out) ∧
      ((l.foldl applyCycleEvent t).out = t.out ∨
        ∃ e, (l.foldl applyCycleEvent t).out = t.out ++ [e] ∧ e.subs = t.subs) from
    (h _ (clearStrobe s) (cycleEvents_nodup s d1n d0n)).2
  intro l
  induction l with
  | nil => intro t _; exact ⟨fun _ => rfl, .inl rfl⟩
  | cons e l ih =>
    intro t hn
    obtain ⟨hel, hl⟩ := List.nodup_cons.1 hn
    have hedge (b : Bool) : (shiftIn b t.now t).out = t.out := rfl
    cases e with
    | edge0 =>
      have := ih (applyCycleEvent t .edge0) hl
      simpa [applyCycleEvent] using this
    | edge1 =>
      have := ih (applyCycleEvent t .edge1) hl
      simpa [applyCycleEvent] using this
    | tick =>
      refine ⟨by simp, ?_⟩
      have := (ih (applyCycleEvent t .tick) hl).1 hel
      rw [List.foldl_cons, this]
      simp only [applyCycleEvent]
      split
      · exact .inr ⟨_, finalizeToPins_out t, rfl⟩
      · exact .inl rfl

end Sys2Proof.Machine
end

