-- ==== Sys2Proof/Laws/Decode.lean ====
section
/-! SUPPORT. Laws of the event word: its fields are what it was packed from, and it is packed from its fields. -/

namespace Sys2Proof

section

variable (op fn : BitVec 4) (pb pa : BitVec 8) (v : BitVec 40)

theorem packWord_toNat :
    (packWord op fn pb pa v).toNat =
      op.toNat * 2 ^ 60 + fn.toNat * 2 ^ 56 + pb.toNat * 2 ^ 48 + pa.toNat * 2 ^ 40 + v.toNat := by
  have glue (x : Nat) {y k : Nat} (hy : y < 2 ^ k) : x * 2 ^ k ||| y = x * 2 ^ k + y := by
    rw [Nat.mul_comm, Nat.two_pow_add_eq_or_of_lt hy]
  simp only [packWord, BitVec.toNat_append, Nat.shiftLeft_eq]
  rw [glue _ fn.isLt, glue _ pb.isLt, glue _ pa.isLt, glue _ v.isLt]
  omega

@[simp] theorem opField_packWord : opField (packWord op fn pb pa v) = op := by
  apply BitVec.eq_of_toNat_eq
  have := op.isLt; have := fn.isLt; have := pb.isLt; have := pa.isLt; have := v.isLt
  simp only [opField, BitVec.extractLsb'_toNat, packWord_toNat, Nat.shiftRight_eq_div_pow]
  omega

@[simp] theorem fnField_packWord : fnField (packWord op fn pb pa v) = fn := by
  apply BitVec.eq_of_toNat_eq
  have := op.isLt; have := fn.isLt; have := pb.isLt; have := pa.isLt; have := v.isLt
  simp only [fnField, BitVec.extractLsb'_toNat, packWord_toNat, Nat.shiftRight_eq_div_pow]
  omega

@[simp] theorem pbField_packWord : pbField (packWord op fn pb pa v) = pb := by
  apply BitVec.eq_of_toNat_eq
  have := op.isLt; have := fn.isLt; have := pb.isLt; have := pa.isLt; have := v.isLt
  simp only [pbField, BitVec.extractLsb'_toNat, packWord_toNat, Nat.shiftRight_eq_div_pow]
  omega

@[simp] theorem paField_packWord : paField (packWord op fn pb pa v) = pa := by
  apply BitVec.eq_of_toNat_eq
  have := op.isLt; have := fn.isLt; have := pb.isLt; have := pa.isLt; have := v.isLt
  simp only [paField, BitVec.extractLsb'_toNat, packWord_toNat, Nat.shiftRight_eq_div_pow]
  omega

@[simp] theorem vField_packWord : vField (packWord op fn pb pa v) = v := by
  apply BitVec.eq_of_toNat_eq
  have := op.isLt; have := fn.isLt; have := pb.isLt; have := pa.isLt; have := v.isLt
  simp only [vField, BitVec.extractLsb'_toNat, packWord_toNat, Nat.shiftRight_eq_div_pow]
  omega

/-- A packed word is zero only if its operation class is. -/
theorem packWord_ne_zero (h : op ≠ 0) : packWord op fn pb pa v ≠ 0 := by
  intro h0
  apply h
  rw [← opField_packWord op fn pb pa v, h0]
  decide

end

/-- R81: a word is packed from its fields, so no bit lies outside them. -/
theorem packWord_fields (w : EventWord) : packWord (opField w) (fnField w) (pbField w) (paField w) (vField w) = w := by
  apply BitVec.eq_of_toNat_eq
  have := w.isLt
  rw [packWord_toNat]
  simp only [opField, fnField, pbField, paField, vField, BitVec.extractLsb'_toNat, Nat.shiftRight_eq_div_pow]
  omega

/-- A bit of the presence flags of CREATE is the bit of the word above bit 56. -/
theorem fnField_getLsbD (w : EventWord) (k : Nat) (h : k < 4) : (fnField w).getLsbD k = w.getLsbD (56 + k) := by
  simp [fnField, h]

/-! ### Operands and their fields -/

/-- R84, R85: a time that fits comes back from its field. -/
theorem timeOf_ofInt {t : Int} (h : timeFits t = true) : timeOf (BitVec.ofInt 40 t) = t := by
  simp [timeFits] at h
  simp [timeOf, BitVec.toNat_ofInt]; omega

/-- R86: a timeout that fits comes back from its field. -/
theorem timeoutOf_ofInt {t : Int} (h : timeoutFits t = true) : timeoutOf (BitVec.ofInt 40 t) = t := by
  simp [timeoutFits] at h
  simp [timeoutOf, BitVec.toInt_ofInt, Int.bmod]; omega

/-- R84: the word of an EDGE decodes to it. -/
theorem decodeWord_edgeWord {p : Nat} {t : Int} (hp : portFits p = true) (ht : timeFits t = true) :
    decodeWord (edgeWord p t) = .ok (.edge p t) := by
  rw [decodeWord, edgeWord, if_neg (packWord_ne_zero _ _ _ _ _ (by decide))]
  simp [decodeEdge, timeOf_ofInt ht]
  simp [portFits] at hp; omega

/-- R88: the word of a codec query decodes by its `fn`. -/
theorem decodeWord_queryWord {raw : Nat} (fn : BitVec 4) (hr : rawFits raw = true) :
    decodeWord (queryWord fn raw) = decodeQueryFn fn raw := by
  rw [decodeWord, queryWord, if_neg (packWord_ne_zero _ _ _ _ _ (by decide))]
  simp [decodeQuery]
  simp [rawFits] at hr; rw [Nat.mod_eq_of_lt hr]

end Sys2Proof
end

