-- ==== Sys2Proof/Laws/PerInstr.lean ====
section
/-! SUPPORT. Statements about every operation of the table as syntax: the operation class (spec/30_encoding.md R82) and
the function field of the code it is carried by. -/

namespace Sys2Proof.Laws.TableRow

open Sys2Proof

/-- R82, R88: the value of `op` and, for the codec queries, of `fn` in the word of an operation. -/
def classOf : Instr → Option (BitVec 4 × Option (BitVec 4))
  | .create _ _ _ => some (0x8, none)
  | .subscribe _ => some (0x9, none)
  | .nop => some (0x0, none)
  | .edge _ _ => some (0x1, none)
  | .edge0 _ => some (0x1, none)
  | .edge1 _ => some (0x1, none)
  | .edgex _ _ => some (0x1, none)
  | .tick _ => some (0x2, none)
  | .fromraw _ => some (0x4, some 0x0)
  | .lpb _ => some (0x4, some 0x1)
  | .fc _ => some (0x4, some 0x2)
  | .cn _ => some (0x4, some 0x3)
  | .tpb _ => some (0x4, some 0x4)
  | .isvalid _ => some (0x4, some 0x5)
  | .tostring _ => some (0x4, some 0x6)
  | .cycle _ _ _ => none

/-- R82, R83 to R88, R94: in every block the operation is carried by a word of its class and function, or, a CYCLE, by
the vector of its pins. -/
def Statement (i : Instr) : Prop :=
  ∀ a b : Nat,
    match encode a b i with
    | .word w => ∃ op fn, classOf i = some (op, fn) ∧ opField w = op ∧ ∀ f, fn = some f → fnField w = f
    | .pins v => classOf i = none ∧ decodePins v = i

theorem create (src0 src1 : Option Nat) (timeout : Option Int) : Statement (.create src0 src1 timeout) := fun _ _ =>
  ⟨_, _, rfl, opField_packWord .., nofun⟩

theorem subscribe (h : Nat) : Statement (.subscribe h) := fun _ _ => ⟨_, _, rfl, opField_packWord .., nofun⟩

theorem nop : Statement .nop := fun _ _ => ⟨_, _, rfl, by decide, nofun⟩

theorem edge (p : Nat) (t : Int) : Statement (.edge p t) := fun _ _ => ⟨_, _, rfl, opField_packWord .., nofun⟩

theorem edge0 (t : Int) : Statement (.edge0 t) := fun _ _ => ⟨_, _, rfl, opField_packWord .., nofun⟩

theorem edge1 (t : Int) : Statement (.edge1 t) := fun _ _ => ⟨_, _, rfl, opField_packWord .., nofun⟩

theorem edgex (p : Nat) (t : Int) : Statement (.edgex p t) := fun _ _ => ⟨_, _, rfl, opField_packWord .., nofun⟩

theorem tick (now : Int) : Statement (.tick now) := fun _ _ => ⟨_, _, rfl, opField_packWord .., nofun⟩

/-- The word of a codec query has the class 0x4 and the function it was built with. -/
theorem query (fn : BitVec 4) (raw : Nat) :
    opField (queryWord fn raw) = 0x4 ∧ ∀ f, some fn = some f → fnField (queryWord fn raw) = f :=
  ⟨opField_packWord .., fun _ h => (fnField_packWord ..).trans (Option.some.inj h)⟩

theorem fromraw (raw : Nat) : Statement (.fromraw raw) := fun _ _ => ⟨_, _, rfl, query 0x0 raw⟩

theorem lpb (raw : Nat) : Statement (.lpb raw) := fun _ _ => ⟨_, _, rfl, query 0x1 raw⟩

theorem fc (raw : Nat) : Statement (.fc raw) := fun _ _ => ⟨_, _, rfl, query 0x2 raw⟩

theorem cn (raw : Nat) : Statement (.cn raw) := fun _ _ => ⟨_, _, rfl, query 0x3 raw⟩

theorem tpb (raw : Nat) : Statement (.tpb raw) := fun _ _ => ⟨_, _, rfl, query 0x4 raw⟩

theorem isvalid (raw : Nat) : Statement (.isvalid raw) := fun _ _ => ⟨_, _, rfl, query 0x5 raw⟩

theorem tostring (raw : Nat) : Statement (.tostring raw) := fun _ _ => ⟨_, _, rfl, query 0x6 raw⟩

theorem cycle (rst d1n d0n : Bool) : Statement (.cycle rst d1n d0n) := fun _ _ =>
  ⟨rfl, by revert rst d1n d0n; decide⟩

end Sys2Proof.Laws.TableRow
end

