-- ==== Sys2Proof/Laws/Runs.lean ====
section
/-! SUPPORT. Laws of runs of events, and the meanings of the frame decoder operations in a running block. -/

namespace Sys2Proof.Machine

open Sys2Proof.Safety

@[simp] theorem runEvents_nil (s : State) : runEvents [] s = .next s := rfl

/-- A run goes on from the state its first event leaves. -/
theorem runEvents_cons {i : Instr} {s s' : State} (h : exec i s = .next s') (rest : List Instr) :
    runEvents (i :: rest) s = runEvents rest s' := by simp [runEvents, h]

/-- A run of two parts goes on from the state the first part leaves. -/
theorem runEvents_append {first : List Instr} {s s' : State} (h : runEvents first s = .next s') (rest : List Instr) :
    runEvents (first ++ rest) s = runEvents rest s' := by
  induction first generalizing s with
  | nil => cases h; rfl
  | cons i first ih =>
    simp only [runEvents] at h
    rw [List.cons_append]
    cases he : exec i s with
    | next t => rw [he] at h; rw [runEvents_cons he]; exact ih h
    | fault r => rw [he] at h; cases h
    | refused r => rw [he] at h; cases h

/-- A run that ends in a next state has a first step that answers a next state. -/
theorem runEvents_cons_next {i : Instr} {rest : List Instr} {s s' : State} (h : runEvents (i :: rest) s = .next s') :
    ∃ t, exec i s = .next t ∧ runEvents rest t = .next s' := by
  simp only [runEvents] at h
  cases he : exec i s with
  | next t => rw [he] at h; exact ⟨t, rfl, h⟩
  | fault r => rw [he] at h; cases h
  | refused r => rw [he] at h; cases h

/-- R100: in a running block an operation of the frame decoder is its writes. -/
theorem exec_of_live {s : State} (hl : live s = true) {i : Instr} {w : State → State} (h : frameWrite i = some w) :
    exec i s = .next (w s) := by rw [exec_frameWrite h, whenLive_of_live hl]

/-! ### Bits and ticks -/

@[simp] theorem shiftBits_nil (par : Config) (acc : Nat) : shiftBits par acc [] = acc := rfl

@[simp] theorem shiftBits_cons (par : Config) (acc : Nat) (bit : Bool) (bits : List Bool) :
    shiftBits par acc (bit :: bits) = shiftBits par (trunc par (2 * acc + bit.toNat)) bits := rfl

@[simp] theorem firstTicks_zero (ticks : Nat → Int) : firstTicks ticks 0 = [] := rfl

theorem firstTicks_succ (ticks : Nat → Int) (n : Nat) :
    firstTicks ticks (n + 1) = firstTicks ticks n ++ [.tick (ticks n)] := by
  simp [firstTicks, List.range_succ]

/-- R229: with a positive T_POLL the ticks pass every time. -/
theorem tickPace_unbounded {tPoll : Int} {ticks : Nat → Int} (h : TickPace tPoll ticks) (hp : 1 ≤ tPoll) (t : Int) :
    ∃ k, t < ticks k := by
  have grow (k : Nat) : ticks 0 + k ≤ ticks k := by
    induction k with
    | zero => simp
    | succ k ih => have := h k; push_cast; omega
  exact ⟨(t - ticks 0 + 1).toNat, by have := grow (t - ticks 0 + 1).toNat; omega⟩

end Sys2Proof.Machine
end

