-- ==== Sys2Proof/Tests/Slice0.lean ====
section
/-! SUPPORT. Tests with the expected results of spec/95_test_vectors.md (the vector is named at each test), the smoke
test of WellFormed, and one theorem for every statement with hypotheses that shows states and operands meeting them. -/

namespace Sys2Proof.Tests

open Sys2Proof Sys2Proof.Machine Sys2Proof.Safety

/-! ### Small states -/

/-- The next state of an outcome. -/
def nextOf : Outcome → Option State
  | .next s => some s
  | .fault _ => none
  | .refused _ => none

/-- 95 part 2: parameters with `ACC_W = inf`. -/
def unbounded : Config := { defaultConfig with accW := none }

/-- 95 section 2.3 and 2.4: a block with `CFG = (0x00, 0x01, 500)` and no subscriber. -/
def block (par : Config) (acc : Nat) (lat : Int) : State :=
  { State.reset with par := par, acc := acc, lat := lat }

/-- 95 section 2.4: the same with `SUBS = [7]`. -/
def blockWith7 (acc : Nat) (lat : Int) : State := { block unbounded acc lat with subs := [7] }

/-- 95 section 2.6: the parameters of the binding vectors. -/
def pinParams (order : SameCycleOrder) : Config :=
  { defaultConfig with accW := some 26, tInact := 6, tPoll := 4, tsW := 4, sameCycleOrder := order }

/-- 95 section 2.6: a block of the binding. -/
def pinBlock (order : SameCycleOrder) (acc : Nat) (lat : Int) (now pcnt : Nat) (p1 p0 : Bool) : State :=
  { State.reset with
    par := pinParams order, tInact := 6, acc := acc, lat := lat, now := now, pcnt := pcnt, p1 := p1, p0 := p0 }

/-- A block halted by an InvalidPortError (V12). -/
def haltedBlock : State := { block unbounded 5 40 with fault := .invalidPort 2 }

/-! ### WellFormed: an ill-formed term for each check -/

theorem test_wellFormed_port : wellFormed 0 1 (.edge 256 0) = false ∧ wellFormed 0 1 (.edge 255 0) = true := by decide
theorem test_wellFormed_source0 : wellFormed 0 1 (.create (some 256) (some 1) none) = false := by decide
theorem test_wellFormed_source1 : wellFormed 0 1 (.create (some 0) (some 256) none) = false := by decide
theorem test_wellFormed_time :
    wellFormed 0 1 (.tick (2 ^ 40)) = false ∧ wellFormed 0 1 (.tick (-1)) = false ∧
    wellFormed 0 1 (.tick (2 ^ 40 - 1)) = true := by decide
theorem test_wellFormed_timeout :
    wellFormed 0 1 (.create none none (some (2 ^ 39))) = false ∧
    wellFormed 0 1 (.create none none (some (-2 ^ 39 - 1))) = false ∧
    wellFormed 0 1 (.create none none (some (-2 ^ 39))) = true := by decide
theorem test_wellFormed_raw :
    wellFormed 0 1 (.isvalid (2 ^ 40)) = false ∧ wellFormed 0 1 (.isvalid (2 ^ 40 - 1)) = true := by decide
theorem test_wellFormed_handler :
    wellFormed 0 1 (.subscribe 65536) = false ∧ wellFormed 0 1 (.subscribe 65535) = true := by decide
theorem test_wellFormed_resolved :
    wellFormed 0 1 (.edgex 0 5) = false ∧ wellFormed 0 1 (.edgex 1 5) = false ∧ wellFormed 256 1 (.edge0 5) = false ∧
    wellFormed 0 256 (.edge1 5) = false ∧ wellFormed 0 1 (.edgex 2 5) = true := by decide

/-! ### Decoding, words of V1 written out -/

theorem test_decode_nop : decodeWord 0x0000000000000000 = .ok .nop := by decide
theorem test_decode_edge :
    decodeWord 0x10000100000003E9 = .ok (.edge 1 1001) ∧ decodeWord 0x1000020000000BB8 = .ok (.edge 2 3000) ∧
    decodeWord 0x1000FF0000000000 = .ok (.edge 0xFF 0) := by decide
theorem test_decode_tick :
    decodeWord 0x20000000000005FA = .ok (.tick 1530) ∧
    decodeWord 0x200000FFFFFFFFFF = .ok (.tick 1099511627775) := by decide
theorem test_decode_create :
    decodeWord 0x870B0A0000000064 = .ok (.create (some 0x0A) (some 0x0B) (some 100)) ∧
    decodeWord 0x8301000000000000 = .ok (.create (some 0) (some 1) none) ∧
    decodeWord 0x870100FFFFFFFFFF = .ok (.create (some 0) (some 1) (some (-1))) := by decide
theorem test_decode_create_absent :
    decodeWord 0x8201000000000000 = .ok (.create none (some 1) none) ∧
    decodeWord 0x8100000000000000 = .ok (.create (some 0) none none) ∧
    decodeWord 0x8000000000000000 = .ok (.create none none none) := by decide
theorem test_decode_subscribe :
    decodeWord 0x9000000000000007 = .ok (.subscribe 7) ∧
    decodeWord 0x900000000000FFFF = .ok (.subscribe 65535) := by decide
theorem test_decode_fromraw : decodeWord 0x4000000002020003 = .ok (.fromraw 0x2020003) := by decide
theorem test_decode_lpb : decodeWord 0x4100000002020003 = .ok (.lpb 0x2020003) := by decide
theorem test_decode_fc : decodeWord 0x4200000002020003 = .ok (.fc 0x2020003) := by decide
theorem test_decode_cn : decodeWord 0x4300000002020003 = .ok (.cn 0x2020003) := by decide
theorem test_decode_tpb : decodeWord 0x4400000002020003 = .ok (.tpb 0x2020003) := by decide
theorem test_decode_isvalid : decodeWord 0x4500000002020003 = .ok (.isvalid 0x2020003) := by decide
theorem test_decode_tostring : decodeWord 0x4600000002020003 = .ok (.tostring 0x2020003) := by decide
/-- P5: `001` is line B low, `010` line A low. -/
theorem test_decode_cycle :
    decodePins 0b001#3 = .cycle false false true ∧ decodePins 0b010#3 = .cycle false true false ∧
    decodePins 0b111#3 = .cycle true true true := by decide
/-- R104 to R107: the word of an EDGE is that of what it resolves to, and decodes to EDGE. -/
theorem test_decode_resolved :
    encode 0 1 (.edge0 1001) = .word 0x10000000000003E9 ∧ encode 0 1 (.edge1 1001) = .word 0x10000100000003E9 ∧
    encode 0 1 (.edgex 2 3000) = .word 0x1000020000000BB8 ∧ resolve 0 1 (.edge 1 1001) = .edge1 1001 := by decide
/-- The table's numbering: an event word has 64 bits, a pin vector 3 in one byte. -/
theorem test_decodeTableWord :
    decodeTableWord 64 0x9000000000000007 = some (.subscribe 7) ∧
    decodeTableWord 64 0x4700000000000000 = none ∧
    decodeTableWord 8 0b110 = some (.cycle true true false) ∧ decodeTableWord 8 0b1000 = none := by decide

/-! ### Reserved words (V2), every reason -/

theorem test_reserved_nopBits : decodeWord 0x0000000000000001 = .error .nopBits := by decide
theorem test_reserved_opcode :
    ∀ op : BitVec 4, op ∈ [0x3#4, 0x5#4, 0x6#4, 0x7#4, 0xA#4, 0xB#4, 0xC#4, 0xD#4, 0xE#4, 0xF#4] →
      decodeWord (packWord op 0 0 0 0) = .error .opcode := by decide
theorem test_reserved_edge :
    decodeWord 0x1100000000000000 = .error .edgeField ∧ decodeWord 0x1001000000000000 = .error .edgeField := by decide
theorem test_reserved_tick : decodeWord 0x2000010000000000 = .error .tickField := by decide
theorem test_reserved_query :
    decodeWord 0x4700000000000000 = .error .queryFn ∧ decodeWord 0x4500010000000000 = .error .queryField := by decide
theorem test_reserved_create :
    decodeWord 0x8B01000000000000 = .error .createFn3 ∧ decodeWord 0x8201050000000000 = .error .createSource0 ∧
    decodeWord 0x8101000000000000 = .error .createSource1 ∧
    decodeWord 0x83010000000001F4 = .error .createTimeout := by decide
theorem test_reserved_subscribe :
    decodeWord 0x9000000000010000 = .error .subscribeField ∧
    decodeWord 0x9100000000000007 = .error .subscribeField := by decide

/-! ### CREATE (V3) and SUBSCRIBE (V5, V6) -/

theorem test_create_fresh :
    (nextOf (exec (.create (some 0xFF) (some 0) (some 100)) State.noBlock)).map
      (fun s => (s.portA, s.portB, s.tInact, s.created)) = some (0xFF, 0, 100, true) := by decide
theorem test_create_first_cause :
    (nextOf (exec (.create none (some 1) (some (-1))) State.noBlock)).map (fun s => (faultCode s.fault, faultInfo s.fault))
      = some (1, 1) ∧
    (nextOf (exec (.create (some 5) (some 5) (some 0)) State.noBlock)).map (fun s => faultInfo s.fault) = some 3 ∧
    (nextOf (exec (.create (some 0) (some 1) (some 0)) State.noBlock)).map (fun s => faultInfo s.fault) = some 4 := by
  decide
theorem test_subscribe_keeps_duplicates :
    (nextOf (exec (.subscribe 7) { block unbounded 0 0 with subs := [7, 9] })).map (·.subs) = some [7, 9, 7] := by decide
theorem test_before_create :
    exec (.subscribe 7) State.noBlock = .refused .beforeCreate ∧ exec .nop State.noBlock = .next State.noBlock :=
  ⟨rfl, rfl⟩

/-! ### Edges (V7, V8, V12) and ticks (V13) -/

theorem test_edge_shifts :
    exec (.edge 0 42) (block unbounded 0b101 40) = .next (block unbounded 0b1010 42) ∧
    exec (.edge 1 7) (block unbounded 0b101 40) = .next (block unbounded 0b1011 7) := by
  and_intros <;> first | decide | rfl
theorem test_edge_port_fault : exec (.edge 2 41) (block unbounded 5 40) = .next haltedBlock := rfl
theorem test_edge0_overflow :
    exec (.edge0 42) (block { unbounded with accW := some 26 } 0x2000000 40) =
      .next (block { unbounded with accW := some 26 } 0 42) := rfl
theorem test_edge1_overflow :
    exec (.edge1 42) (block defaultConfig 0x80000001 40) = .next (block defaultConfig 3 42) := rfl
theorem test_edgex : exec (.edgex 0 1) (block unbounded 0 40) =
    .next { block unbounded 0 40 with fault := .invalidPort 0 } := rfl
theorem test_tick_boundary :
    exec (.tick 1525) (blockWith7 0x2020002 1025) = .next (blockWith7 0x2020002 1025) ∧
    exec (.tick 1526) (blockWith7 0x2020002 1025) =
      .next { blockWith7 0 1025 with out := [{ raw := 0x2020002, subs := [7] }] } := by
  and_intros <;> first | decide | rfl
theorem test_tick_time_goes_back :
    exec (.tick 900) (blockWith7 0x2020002 1025) = .next (blockWith7 0x2020002 1025) := rfl
theorem test_nop_halted : exec .nop haltedBlock = .next haltedBlock := rfl

/-- P3: handler 1 twice and handler 2 once between, each with the raw value. -/
theorem test_deliveries :
    deliveries { raw := 0x76B42469, subs := [1, 2, 1] } =
      [(1, { raw := 0x76B42469 }), (2, { raw := 0x76B42469 }), (1, { raw := 0x76B42469 })] := by decide

/-! ### Codec (V20) -/

/-- What a codec query answers. -/
def replyOf (i : Instr) (wide : IsValidWide) : Option Reply :=
  (nextOf (exec i (block { unbounded with isValidWide := wide } 0 0))).bind (·.reply)

theorem test_fromraw : replyOf (.fromraw 0x76B42469) .ignoreHigh = some (.cardData { raw := 0x76B42469 }) := by decide
theorem test_lpb : replyOf (.lpb 0x2020002) .ignoreHigh = some (.lpb 1) ∧
    replyOf (.lpb 0x4040004) .ignoreHigh = some (.lpb 0) := by decide
theorem test_fc : replyOf (.fc 0x2F764DD) .ignoreHigh = some (.fc 123) := by decide
theorem test_cn : replyOf (.cn 0x2F764DD) .ignoreHigh = some (.cn 45678) ∧
    replyOf (.cn 0x3FFE000) .ignoreHigh = some (.cn 61440) := by decide
theorem test_tpb : replyOf (.tpb 0x33F1152) .ignoreHigh = some (.tpb 0) ∧
    replyOf (.tpb 0x2AB) .ignoreHigh = some (.tpb 1) := by decide
theorem test_isvalid_layout :
    [0x2020003, 0x2020002, 0x0, 0x1, 0x3, 0x1FFF, 0x2000, 0x3FFFFFF, 0x1FFFFFF, 0x2B42469].map (isValidOf .ignoreHigh) =
      [false, true, false, true, false, true, false, false, true, true] := by decide
/-- The readings of 0x4040004, 0x4000001, 0x6020002, 0x76B42469 and 0x80800080. -/
theorem test_isvalid_wide :
    [.ignoreHigh, .falseIfHigh, .upperUnmasked].map
      (fun wide => [0x4040004, 0x4000001, 0x6020002, 0x76B42469, 0x80800080].map (isValidOf wide)) =
      [[false, true, true, true, false], [false, false, false, false, false], [true, false, false, true, true]] := by
  decide
/-- `TOSTRING 0x2B42469 = RENDER(1, 90, 4660, 1, true)`, whatever RENDER is. -/
theorem test_tostring : replyOf (.tostring 0x2B42469) .ignoreHigh = some (.text (Config.render 1 90 4660 1 true)) := rfl

/-! ### Cycles (V30, V31) -/

theorem test_cycle_wrapped_tick :
    (nextOf (exec (.cycle false true true) (pinBlock .any 1 14 7 0 true true))).map
      (fun s => (s.acc, s.outRaw, s.outStb, s.now, s.pcnt)) = some (0, 1, true, 8, 3) ∧
    (nextOf (exec (.cycle false true true) (pinBlock .any 1 14 3 0 true true))).map
      (fun s => (s.acc, s.outStb)) = some (1, false) := by decide
theorem test_cycle_both_lines_and_firing_tick :
    (nextOf (exec (.cycle false false false) (pinBlock .edgesFirst 1 0 5 2 true true))).map
      (fun s => (s.acc, s.lat, s.p0, s.p1)) = some (0b101, 5, false, false) ∧
    (nextOf (exec (.cycle false false true) (pinBlock .edgesFirst 1 2 11 0 true true))).map
      (fun s => (s.acc, s.lat, s.outStb)) = some (0b11, 11, false) ∧
    (nextOf (exec (.cycle false false true) (pinBlock .tickFirst 1 2 11 0 true true))).map
      (fun s => (s.acc, s.lat, s.outRaw, s.outStb)) = some (1, 11, 1, true) := by decide

/-! ### Trace assembly (R92 to R94; P1, P2, V21) -/

theorem test_assembly_lines :
    assembleText unbounded "CREATE a=0x0A b=0x0B timeout=100 ; P2\nSUB 3\nA @20\nTICKS @0 +5 x2\n\nISVALID 0xD7" =
      some [.create (some 0x0A) (some 0x0B) (some 100), .subscribe 3, .edge 0x0A 20, .tick 0, .tick 5, .isvalid 0xD7] := by
  decide
theorem test_assembly_needs_create : assembleText unbounded "B @1" = none ∧ assembleText unbounded "SUBS 1" = none := by
  decide
theorem test_assembly_pins :
    assembleText unbounded "111\n001" = some [.cycle true true true, .cycle false false true] := by decide
/-- V21, FC 90, CN 4660: `10101101000010010001101001`. -/
theorem test_assembly_card :
    validCard 90 4660 = 0x2B42469 ∧ validCard 159 34985 = 0x33F1152 ∧
    cardBits 0x2020002 = [true, false, false, false, false, false, false, false, true] ++
      List.replicate 15 false ++ [true, false] := by decide

/-! ### Premises that can be met: encoding and the step -/

theorem witness_DecodeEncode :
    (0 : Nat) ≠ 255 ∧
    [Instr.create (some 255) (some 255) (some (2 ^ 39 - 1)), .create none none (some (-2 ^ 39)), .subscribe 65535, .nop,
      .edge 255 (2 ^ 40 - 1), .edge0 0, .edge1 (2 ^ 40 - 1), .edgex 254 0, .tick (2 ^ 40 - 1), .fromraw (2 ^ 40 - 1),
      .cycle true true true].all (wellFormed 0 255) = true := by decide
theorem witness_EncodeDecode :
    decodeCode (.word 0x870100FFFFFFFFFF) = .ok (.create (some 0) (some 1) (some (-1))) ∧
    decodeCode (.pins 0b111) = .ok (.cycle true true true) := by decide
theorem witness_CardAccumulatesTheValidCard :
    live State.reset = true ∧ State.reset.acc = 0 ∧ State.reset.portA ≠ State.reset.portB ∧
    configValid State.reset.par = true := by decide
theorem witness_StepRunsTheDecodedOperation :
    let given (x : Input) : State := { State.reset with trace := [x] }
    ((given (.code (.word 0x9000000000000007))).trace = [.code (.word 0x9000000000000007)] ∧
      decodeInput (.code (.word 0x9000000000000007)) = .ok (.subscribe 7)) ∧
    ((given (.event (.tick (-5)))).trace = [.event (.tick (-5))] ∧
      decodeInput (.event (.tick (-5))) = .ok (.tick (-5))) ∧
    ((given (.code (.word 1))).trace = [.code (.word 1)] ∧ decodeInput (.code (.word 1)) = .error .nopBits) ∧
    State.reset.trace = [] := by decide

/-! ### Premises that can be met: reset and CREATE -/

theorem witness_ResetIsWhatRstLeaves :
    let s : State := { pinBlock .any 5 3 2 1 true true with par := defaultConfig, draws := 0 }
    s.par = defaultConfig ∧ s.draws = 0 ∧ s.reply = none ∧ s.trace = [] := by decide
theorem witness_CreateStartsAFreshBlock :
    configValid State.noBlock.par = true ∧ (0 : Nat) ≠ 1 ∧ (∀ t, (none : Option Int) = some t → 0 < t) ∧
    (∀ t, some (1 : Int) = some t → 0 < t) :=
  ⟨by decide, by decide, nofun, fun _ h => Option.some.inj h ▸ by decide⟩
/-- One argument list for each clause, the timeouts at the boundary. -/
theorem witness_CreateReportsTheFirstCause :
    configValid State.noBlock.par = true ∧
    (∃ a : Nat, some 5 = some a) ∧ (0 : Nat) ≠ 1 ∧ (∃ t : Int, some 0 = some t ∧ t ≤ 0) :=
  ⟨by decide, ⟨5, rfl⟩, by decide, ⟨0, rfl, by decide⟩⟩
theorem witness_RstPinResetsEveryRegister :
    bindingValid (pinParams .any) = true ∧ bindingValid { pinParams .any with tInact := 0 } = true := by decide
/-- One parameter set for each disjunct, at the boundary of its range. -/
theorem witness_ParametersOutsideTheSpecAreRefused :
    (some 25 = some 25 ∧ 25 < 26) ∧ ({ defaultConfig with ms := 0 }).ms = 0 ∧ ({ defaultConfig with tPoll := 0 }).tPoll = 0 ∧
    unbounded.accW = none ∧
    2 ^ (pinParams .any).tsW ≤ ({ pinParams .any with tInact := 12 }).tInact + (pinParams .any).tPoll ∧
    ({ defaultConfig with ms := 2 }).fClk ≠ 1000 * ({ defaultConfig with ms := 2 }).ms := by decide

/-! ### Premises that can be met: the frame decoder -/

theorem witness_SubscribeAppendsTheHandler : live (block unbounded 0 0) = true := by decide
theorem witness_EdgeResolvesByPort :
    live (block unbounded 5 40) = true ∧ (block unbounded 5 40).portA ≠ (block unbounded 5 40).portB ∧
    0 = (block unbounded 5 40).portA ∧ 1 = (block unbounded 5 40).portB ∧ 2 ≠ (block unbounded 5 40).portA ∧
    2 ≠ (block unbounded 5 40).portB := by decide
theorem witness_EdgeZeroShiftsInAZero : live (block defaultConfig 0x80000000 40) = true := by decide
theorem witness_EdgeOneShiftsInAOne :
    live (block { unbounded with accW := some 26 } 0x3FFFFFF 40) = true ∧
    configValid { unbounded with accW := some 26 } = true := by decide
theorem witness_EdgeXFaultsAndHalts :
    live (block unbounded 5 40) = true ∧ haltedBlock.created = true ∧ halted haltedBlock = true := by decide
theorem witness_TickIdleChangesNothing :
    live (block unbounded 0 40) = true ∧ (block unbounded 0 40).acc = 0 ∧ live (block unbounded 5 40) = true ∧
    540 - (block unbounded 5 40).lat ≤ (block unbounded 5 40).tInact := by decide
theorem witness_TickFinalizes :
    live (block unbounded 5 40) = true ∧ (block unbounded 5 40).acc ≠ 0 ∧
    (block unbounded 5 40).tInact < 541 - (block unbounded 5 40).lat := by decide
theorem witness_ReservedWordsAreTheUnmatched :
    ({ State.reset with trace := [.code (.word 0x9000000000010000)] }).trace = [.code (.word 0x9000000000010000)] ∧
    decodeWord 0x9000000000010000 = .error .subscribeField ∧ decodeWord 0x900000000000FFFF = .ok (.subscribe 65535) := by
  decide
/-- One state for each clause; a CREATE leaves the halted state. -/
theorem witness_HaltedAndMissingBlocks :
    haltedBlock.created = true ∧ halted haltedBlock = true ∧ State.noBlock.created = false ∧
    ∃ s, exec (.create (some 0) (some 1) none) haltedBlock = .next s ∧ halted s = false :=
  ⟨by decide, by decide, by decide, _, rfl, by decide⟩
/-- One step for each clause; the second clears ACC by shifting its only bit out (V8). -/
theorem witness_ControlStateTransitions :
    live (block defaultConfig 0 40) = true ∧ live (block defaultConfig 0x80000000 40) = true ∧
    configValid defaultConfig = true ∧
    controlState (block defaultConfig 0 40) = .idle ∧ controlState (block defaultConfig 0x80000000 40) = .collect ∧
    exec (.edge0 42) (block defaultConfig 0 40) = .next (block defaultConfig 0 42) ∧
    exec (.edge0 42) (block defaultConfig 0x80000000 40) = .next (block defaultConfig 0 42) ∧
    exec (.edge1 42) (block defaultConfig 0 40) = .next (block defaultConfig 1 42) ∧
    exec (.tick 9999) (block defaultConfig 0 40) = .next (block defaultConfig 0 40) ∧
    exec (.tick 540) (block defaultConfig 5 40) = .next (block defaultConfig 5 40) ∧
    exec (.tick 541) (block defaultConfig 5 40) =
      .next { block defaultConfig 0 40 with out := [{ raw := 5, subs := [] }] } ∧
    exec (.edgex 2 42) (block unbounded 5 40) = .next haltedBlock := by
  and_intros <;> first | decide | rfl

/-! ### Premises that can be met: the codec -/

theorem witness_PopcountCountsBits : 0xD7 < 2 ^ 8 := by decide
theorem witness_IsValidCountsTheGroups :
    0x4040004 < 2 ^ 27 ∧ unbounded.isValidWide = .ignoreHigh ∧
    ({ unbounded with isValidWide := .falseIfHigh }).isValidWide = .falseIfHigh ∧
    ({ unbounded with isValidWide := .upperUnmasked }).isValidWide = .upperUnmasked := by decide
theorem witness_ComposeAndExtractAreInverse : 0x3FFFFFF < 2 ^ 26 := by decide
/-- V22, in the low group, and the ends of both groups. -/
theorem witness_SingleBitErrorsAreDetected :
    0x2020002 < 2 ^ 26 ∧ isValidOf .ignoreHigh 0x2020002 = true ∧ 25 < 26 ∧ 0 ≠ 12 ∧ (0 < 13 ↔ 12 < 13) ∧
    13 ≠ 25 ∧ (13 < 13 ↔ 25 < 13) := by decide

/-! ### Premises that can be met: runs -/

theorem witness_PulsesAccumulateMostSignificantFirst :
    live (block unbounded 0 40) = true ∧ (block unbounded 0 40).portA ≠ (block unbounded 0 40).portB ∧
    (block unbounded 0 40).acc = 0 ∧ ([(true, 1), (false, 2), (true, 3)] : List Pulse).getLast? = some (true, 3) := by
  decide
/-- V10 on a small frame, with an idle tick in between. -/
theorem witness_AccumulationClosedForm :
    live (block defaultConfig 0b11 40) = true ∧ fitsAcc defaultConfig 0b11 ∧
    ([.edge0 41, .edge1 42, .tick 300] : List Instr).all edgeOrTick = true ∧
    runEvents [.edge0 41, .edge1 42, .tick 300] (block defaultConfig 0b11 40) = .next (block defaultConfig 0b1101 42) ∧
    lastEdgeTime [.edge0 41, .edge1 42, .tick 300] = some 42 ∧ lastEdgeTime [.tick 300] = none :=
  ⟨by decide, by show _ < _; decide, by decide, rfl, by decide, by decide⟩
theorem witness_FinalizeOnSilence :
    live (block unbounded 5 40) = true ∧ (block unbounded 5 40).acc ≠ 0 ∧
    (∃ n ∈ [(540 : Int), 541], (block unbounded 5 40).tInact < n - (block unbounded 5 40).lat) ∧
    (∀ n ∈ [(0 : Int), 540], n - (block unbounded 5 40).lat ≤ (block unbounded 5 40).tInact) := by decide
theorem witness_NoEmitOnIdle :
    (block unbounded 0 40).acc = 0 ∧ (block unbounded 0 40).out = [] ∧
    runEvents [.edge 0 41, .edge0 42, .tick 9999, .subscribe 3] (block unbounded 0 40) =
      .next { block unbounded 0 42 with subs := [3] } ∧
    ∀ i ∈ [Instr.edge 0 41, .edge0 42, .tick 9999, .subscribe 3],
      (∀ t, i ≠ .edge1 t) ∧ (∀ t, i ≠ .edge (block unbounded 0 40).portB t) ∧ (∀ a b t, i ≠ .create a b t) ∧
      (∀ r x y, i ≠ .cycle r x y) :=
  ⟨by decide, by decide, rfl, by simp [block, State.reset]⟩
/-- One set of times for each clause, at the boundary; in the last the frame is a lone top bit that EDGE0 shifts out (V8). -/
theorem witness_NoLostUpdateAtFinalize :
    (live (block unbounded 5 40) = true ∧ configValid unbounded = true ∧ (block unbounded 5 40).acc ≠ 0) ∧
    (block unbounded 5 40).tInact < 541 - (block unbounded 5 40).lat ∧
    541 - 41 ≤ (block unbounded 5 40).tInact ∧
    ((block unbounded 5 40).tInact < 542 - 41 ∧ trunc unbounded (2 * 5 + false.toNat) ≠ 0) ∧
    live (block defaultConfig 0x80000000 40) = true ∧ configValid defaultConfig = true ∧
    (block defaultConfig 0x80000000 40).acc ≠ 0 ∧ trunc defaultConfig (2 * 0x80000000 + false.toNat) = 0 := by decide
/-- A block with T_INACT = 6 and a tick every 5 TU, the last edge at 40. -/
def fastBlock : State := { block defaultConfig 5 40 with tInact := 6 }
/-- The ticks 43, 48, 53 and so on: T_POLL = 5 apart, and 5 after a CREATE at 38. -/
def fastTicks (k : Nat) : Int := 43 + 5 * k
theorem fastTicks_paced : TickPace 5 fastTicks ∧ TickBound 5 38 fastTicks :=
  ⟨fun k => by simp only [fastTicks]; omega, ⟨by decide, fun k => by simp only [fastTicks]; omega⟩⟩
theorem witness_FinalizeLatency :
    live fastBlock = true ∧ fastBlock.acc ≠ 0 ∧ 1 ≤ fastBlock.par.tPoll ∧ TickPace fastBlock.par.tPoll fastTicks ∧
    (38 : Int) ≤ fastBlock.lat ∧ 0 ≤ fastBlock.tInact ∧ TickBound 5 38 fastTicks :=
  ⟨by decide, by decide, by decide, fastTicks_paced.1, by decide, by decide, fastTicks_paced.2⟩
theorem witness_ShortGapsNeverSplitAFrame :
    live fastBlock = true ∧ fastBlock.acc ≠ 0 ∧ (∀ n ∈ [(43 : Int), 46], n ≤ 46) ∧ 46 - fastBlock.lat ≤ fastBlock.tInact := by
  decide
theorem witness_LongPausesAlwaysSeparateFrames :
    live fastBlock = true ∧ fastBlock.acc ≠ 0 ∧ fitsAcc fastBlock.par 1 ∧ (38 : Int) ≤ fastBlock.lat ∧
    0 ≤ fastBlock.tInact ∧ TickBound 5 38 fastTicks ∧ 52 ≤ fastTicks 2 ∧
    FrameGap fastBlock.tInact 5 fastBlock.lat 52 :=
  ⟨by decide, by decide, by show _ < _; decide, by decide, by decide, fastTicks_paced.2, by decide,
    by unfold FrameGap; decide⟩
theorem witness_LatWhileIdleIsUnobservable :
    (block unbounded 0 40).acc = 0 ∧
    runEvents [.tick 9999, .edge1 50] (block unbounded 0 40) = .next (block unbounded 1 50) ∧
    (block unbounded 1 50).acc ≠ 0 := by
  and_intros <;> first | decide | rfl

/-! ### Premises that can be met: whole-machine rules -/

/-- A block in the middle of a frame, an EDGE on line B next. -/
def midFrame : State := { block defaultConfig 5 40 with trace := [.code (.word 0x100001000000002A)] }
theorem witness_EveryStepKeepsTheInvariants : Inv midFrame ∧ ∃ s, step midFrame = .next s :=
  ⟨{ params := by decide, acc := by show _ < _; decide, outRaw := by show _ < _; decide, now := by decide
     pcnt := by decide, config := fun _ => by decide, outNonzero := by decide, strobe := by decide
     uncreated := by decide, noDecoder := nofun },
    _, rfl⟩
theorem witness_ConfigurationIsImmutable :
    exec (.edge 1 42) (block unbounded 5 40) = .next (block unbounded 11 42) ∧
    (∀ a b t, Instr.edge 1 42 ≠ .create a b t) ∧ (∀ x y, Instr.edge 1 42 ≠ .cycle true x y) :=
  ⟨rfl, nofun, nofun⟩
theorem witness_FaultIsStickyAndFreezesTheBlock :
    halted haltedBlock = true ∧ exec (.tick 1000) haltedBlock = .next haltedBlock ∧
    (∀ a b t, Instr.tick 1000 ≠ .create a b t) ∧ (∀ x y, Instr.tick 1000 ≠ .cycle true x y) :=
  ⟨by decide, rfl, nofun, nofun⟩
/-- One step for each clause. -/
theorem witness_OnlyTheNamedOperationsWrite :
    ((∀ a b t, Instr.edge0 42 ≠ .create a b t) ∧ (∀ r x y, Instr.edge0 42 ≠ .cycle r x y)) ∧
    (∃ s, exec (.edge0 42) (block unbounded 5 40) = .next s ∧ s.acc ≠ 5 ∧ s.lat ≠ 40) ∧
    (∃ s, exec (.subscribe 3) (block unbounded 5 40) = .next s ∧ s.subs ≠ []) ∧
    (∃ s, exec (.tick 541) (block unbounded 5 40) = .next s ∧ s.out ≠ []) ∧
    (∃ s, exec (.edgex 2 42) (block unbounded 5 40) = .next s ∧ s.fault ≠ .none) :=
  ⟨⟨nofun, nofun⟩, ⟨_, rfl, by decide, by decide⟩, ⟨_, rfl, by decide⟩, ⟨_, rfl, by decide⟩, ⟨_, rfl, by decide⟩⟩
theorem witness_AgentsWriteTheirOwnState :
    (block unbounded 5 40).portA ≠ (block unbounded 5 40).portB ∧
    agentOf (block unbounded 5 40) (.edge 0 42) = some .irqA ∧
    exec (.edge 0 42) (block unbounded 5 40) = .next (block unbounded 10 42) ∧
    agentOf (block unbounded 5 40) (.edge1 42) = some .irqB ∧
    exec (.edge1 42) (block unbounded 5 40) = .next (block unbounded 11 42) ∧
    agentOf (block unbounded 5 40) (.tick 540) = some .poller ∧
    exec (.tick 540) (block unbounded 5 40) = .next (block unbounded 5 40) := by
  and_intros <;> first | decide | rfl
theorem witness_SubscribersAndOutputOnlyGrow :
    exec (.tick 541) (blockWith7 5 40) = .next { blockWith7 0 40 with out := [{ raw := 5, subs := [7] }] } ∧
    (∀ a b t, Instr.tick 541 ≠ .create a b t) ∧ (∀ x y, Instr.tick 541 ≠ .cycle true x y) :=
  ⟨rfl, nofun, nofun⟩

/-! ### Premises that can be met: the binding -/

theorem witness_HaltedCycleClearsTheStrobe :
    bindingValid { pinParams .any with tInact := 0 } = true ∧
    halted { pinBlock .any 0 0 0 3 true true with fault := .configurationError .timeoutNotPositive } = true := by decide
/-- A cycle with all three events, and one with none. -/
theorem witness_EveryCycleCompletes :
    let s := pinBlock .any 1 2 11 0 true true
    bindingValid s.par = true ∧ halted s = false ∧ (cycleEvents (pinBlock .edgesFirst 1 2 11 0 true true) false false).length = 3 ∧
    (cycleEvents (pinBlock .any 1 2 11 3 true true) true true).length = 0 := by decide
/-- No line falls, line A falls while line B stays low, line B falls while line A stays high, and both fall. -/
theorem witness_CycleWithNoTickDue :
    let s := pinBlock .any 1 9 15 2 false true
    let u := pinBlock .any 1 9 15 2 true true
    bindingValid s.par = true ∧ halted s = false ∧ s.pcnt ≠ 0 ∧ s.p0 = true ∧ (s.p1 = true → false = true) ∧
    bindingValid u.par = true ∧ halted u = false ∧ u.pcnt ≠ 0 ∧ u.p1 = true ∧ (u.p0 = true → true = true) ∧
    (u.p1 = true → true = true) ∧ u.p0 = true := by decide
/-- Both branches: 9 > 6 and 6 > 6. -/
theorem witness_CycleTickFinalizesOntoThePins :
    let s := pinBlock .any 1 2 11 0 true true
    bindingValid s.par = true ∧ halted s = false ∧ s.pcnt = 0 ∧ (s.p0 = true → true = true) ∧
    (s.acc ≠ 0 ∧ s.tInact < ((s.now : Int) - s.lat) % 2 ^ s.par.tsW) ∧
    ¬ (pinBlock .any 1 5 11 0 true true).tInact < (((11 : Nat) : Int) - 5) % 2 ^ s.par.tsW := by decide
theorem witness_CycleAppliesItsEventsInAnAllowedOrder :
    (pinBlock .edgesFirst 1 2 11 0 true true).par.sameCycleOrder = .edgesFirst ∧
    (pinBlock .tickFirst 1 2 11 0 true true).par.sameCycleOrder = .tickFirst ∧
    (pinBlock .tickFirst 1 2 11 0 true true).pcnt = 0 ∧ (pinBlock .tickFirst 1 2 11 0 true true).p1 = true := by decide
/-- In every order, with line B falling and with both: a tick that fires, 9 > 6, and one that does not, 6 > 6. -/
theorem witness_EdgesAndTickInOneCycle :
    ∀ order ∈ [SameCycleOrder.edgesFirst, .tickFirst, .any],
      let s := pinBlock order 1 2 11 0 true true
      let u := pinBlock order 1 5 11 0 true true
      (bindingValid s.par = true ∧ halted s = false ∧ s.pcnt = 0 ∧ 0 ≤ s.tInact ∧ s.par.sameCycleOrder = order ∧
        fallingBits s false true ≠ [] ∧ fallingBits s false false ≠ [] ∧
        (s.acc ≠ 0 ∧ s.tInact < ((s.now : Int) - s.lat) % 2 ^ s.par.tsW)) ∧
      (bindingValid u.par = true ∧ halted u = false ∧ u.pcnt = 0 ∧ 0 ≤ u.tInact ∧ u.par.sameCycleOrder = order ∧
        fallingBits u true false ≠ [] ∧ ¬ u.tInact < ((u.now : Int) - u.lat) % 2 ^ u.par.tsW) := by decide
/-- Cycle 27 and a last edge in cycle 17, T_INACT + T_POLL = 10 earlier, with NOW wrapped. -/
theorem witness_ModularComparatorIsExact :
    let s := pinBlock .any 1 1 11 0 true true
    bindingValid s.par = true ∧ s.tInact = (s.par.tInact : Int) ∧ (s.now : Int) = 27 % 2 ^ s.par.tsW ∧
    s.lat = 17 % 2 ^ s.par.tsW ∧ (0 : Int) ≤ 27 - 17 ∧ (27 : Int) - 17 ≤ s.par.tInact + s.par.tPoll := by decide
theorem witness_TimeBaseAndPollDivider :
    0 < (pinParams .any).tInact ∧ ∃ s, exec (.cycle true true true) (pinBlock .any 1 2 11 0 true true) = .next s :=
  ⟨by decide, _, rfl⟩
theorem witness_StrobesAreNeverAdjacent :
    1 ≤ (pinBlock .any 1 2 11 0 true true).tInact ∧
    ∃ s1, exec (.cycle false true true) (pinBlock .any 1 2 11 0 true true) = .next s1 ∧ s1.outStb = true ∧
      ∃ s2, exec (.cycle false false true) s1 = .next s2 :=
  ⟨by decide, _, rfl, by decide, _, rfl⟩
theorem witness_PinsShowTheOutputRegisters :
    0 < (pinParams .any).tInact ∧ ∃ s, exec (.cycle true false true) (pinBlock .any 1 2 11 0 true true) = .next s :=
  ⟨by decide, _, rfl⟩
/-- Cycle 27, in the middle of a frame whose last edge was in cycle 17, with NOW wrapped and a tick due. -/
theorem witness_EveryCycleKeepsTheSimulation :
    (0 < (pinParams .any).tInact ∧ ∃ s, exec (.cycle true true true) (pinBlock .any 1 2 11 0 true true) = .next s) ∧
    Simulates 27 (pinBlock .any 1 1 11 0 true true) (pinBlock .any 1 17 0 0 false false) :=
  ⟨⟨by decide, _, rfl⟩,
    { params := by decide, legal := by decide, par := rfl, created := rfl, portA := rfl, portB := rfl, timeout := rfl
      timeoutB := rfl, fault := rfl, faultB := rfl, acc := rfl, lat := by decide, out := rfl, subs := rfl, subsB := rfl
      now := by decide, pcnt := by decide, recent := fun _ => by decide }⟩
theorem witness_BindingRefinesTheEventMachine :
    0 < (pinParams .tickFirst).tInact ∧
    ∃ s, exec (.cycle true true true) (pinBlock .tickFirst 1 2 11 0 true true) = .next s :=
  ⟨by decide, _, rfl⟩
/-- With a legal static timeout and with T_INACT = 0. -/
theorem witness_BindingNeverFaultsInACycle :
    (∃ s b, exec (.cycle true true true) (pinBlock .tickFirst 1 2 11 0 true true) = .next s ∧
      runEvents (cyclesOf [(true, true), (false, true)]) s = .next b) ∧
    (∃ s b, exec (.cycle true true true)
        { pinBlock .tickFirst 1 2 11 0 true true with par := { pinParams .tickFirst with tInact := 0 } } = .next s ∧
      runEvents (cyclesOf [(true, true), (false, true)]) s = .next b) :=
  ⟨⟨_, _, rfl, rfl⟩, ⟨_, _, rfl, rfl⟩⟩

end Sys2Proof.Tests
end

section
/-! The statements of spec/00_scope.md: the Hamming weight (R14), one step (R18, R89, R210), and the parameters that are
no instance of the spec (R7, R9, R150, R161). -/

namespace Sys2Proof.Machine

/-! ### Set bits (R14) -/

/-- The set bits below position `n + 1` are bit 0 and the set bits of the half below position `n`. -/
theorem countP_testBit_range_succ (n v : Nat) :
    (List.range (n + 1)).countP v.testBit = v % 2 + (List.range n).countP (v / 2).testBit := by
  have shifted : v.testBit ∘ Nat.succ = (v / 2).testBit := funext fun k => Nat.testBit_succ v k
  have lastBit : (if v.testBit 0 then 1 else 0) = v % 2 := by
    rw [Nat.testBit_zero]; rcases Nat.mod_two_eq_zero_or_one v with h | h <;> simp [h]
  rw [List.range_succ_eq_map, List.countP_cons, List.countP_map, shifted, lastBit, Nat.add_comm]

theorem popcount_eq_countP_testBit {n v : Nat} (h : v < 2 ^ n) : popcount v = (List.range n).countP v.testBit := by
  induction n generalizing v with
  | zero =>
    have : v = 0 := by simpa using h
    subst this; rfl
  | succ n ih =>
    have half : v / 2 < 2 ^ n := by rw [Nat.pow_succ] at h; omega
    rw [popcount_rec, countP_testBit_range_succ, ih half]

/-! ### One step (R18, R89, R210) -/

theorem fetch_of_trace_nil {s : State} (h : s.trace = []) : fetch s = none := by
  rw [fetch, h]

theorem fetch_of_trace_cons {s : State} {input : Input} {rest : List Input} (h : s.trace = input :: rest) :
    fetch s = some (decodeInput input, { s with trace := rest }) := by
  rw [fetch, h]

theorem step_of_fetch_none {s : State} (h : fetch s = none) : step s = .next s := by
  rw [step, h]

theorem step_of_fetch_ok {s rest : State} {i : Instr} (h : fetch s = some (.ok i, rest)) : step s = exec i rest := by
  rw [step, h]

theorem step_of_fetch_error {s rest : State} {why : Reserved} (h : fetch s = some (.error why, rest)) :
    step s = .refused (.reservedWord why) := by
  rw [step, h]

/-! ### Parameters outside the spec (R7, R9, R150) -/

theorem configValid_iff (par : Config) :
    configValid par = true ↔ (∀ w, par.accW = some w → 26 ≤ w) ∧ 1 ≤ par.ms ∧ 1 ≤ par.tPoll := by
  simp [configValid, Option.all_eq_true, and_assoc]

theorem bindingValid_iff (par : Config) :
    bindingValid par = true ↔
      configValid par = true ∧ par.accW.isSome = true ∧ par.tInact + par.tPoll < 2 ^ par.tsW ∧
        par.fClk = 1000 * par.ms := by
  simp [bindingValid, and_assoc]

theorem configValid_eq_false {par : Config}
    (h : (∃ w, par.accW = some w ∧ w < 26) ∨ par.ms = 0 ∨ par.tPoll = 0) : configValid par = false := by
  rw [Bool.eq_false_iff, ne_eq, configValid_iff]
  rintro ⟨hacc, hms, hpoll⟩
  rcases h with ⟨w, hw, hlt⟩ | h | h
  · exact absurd (hacc w hw) (by omega)
  · omega
  · omega

/-- R150: the binding asks for what every block asks for, and for three conditions of its own. -/
theorem bindingValid_eq_false {par : Config}
    (h : configValid par = false ∨ par.accW = none ∨ 2 ^ par.tsW ≤ par.tInact + par.tPoll ∨
      par.fClk ≠ 1000 * par.ms) : bindingValid par = false := by
  rw [Bool.eq_false_iff, ne_eq, bindingValid_iff]
  rintro ⟨hvalid, hsome, hwide, hclk⟩
  rcases h with h | h | h | h
  · simp [h] at hvalid
  · simp [h] at hsome
  · omega
  · exact h hclk

theorem exec_create_of_not_configValid {s : State} (h : configValid s.par = false) (src0 src1 : Option Nat)
    (timeout : Option Int) : exec (.create src0 src1 timeout) s = .refused .outsideTheSpec := by
  simp [exec, execCreate, h]

theorem exec_cycle_of_not_bindingValid {s : State} (h : bindingValid s.par = false) (rst d1n d0n : Bool) :
    exec (.cycle rst d1n d0n) s = .refused .outsideTheSpec := by
  simp [exec, execCycle, h]

/-! ### The statements -/

/-- Settles O24, by induction on the number of positions: halving the value drops bit 0. -/
theorem popcountCountsBits : Obligations.PopcountCountsBits := by
  intro n v h
  rw [popcount_eq_countP_testBit h, List.countP_eq_length_filter]

/-- Settles O6, one clause for each answer of `fetch`. -/
theorem stepRunsTheDecodedOperation : Obligations.StepRunsTheDecodedOperation := by
  refine ⟨fun s input rest i htrace hdecode => ?_, fun s input rest why htrace hdecode => ?_, fun s htrace => ?_⟩
  · have hfetch := fetch_of_trace_cons htrace
    rw [hdecode] at hfetch
    exact step_of_fetch_ok hfetch
  · have hfetch := fetch_of_trace_cons htrace
    rw [hdecode] at hfetch
    exact step_of_fetch_error hfetch
  · exact step_of_fetch_none (fetch_of_trace_nil htrace)

/-- Settles O12: each disjunct contradicts one condition of `configValid` or `bindingValid`. -/
theorem parametersOutsideTheSpecAreRefused : Obligations.ParametersOutsideTheSpecAreRefused := by
  refine ⟨fun s src0 src1 timeout h => ?_, fun s rst d1n d0n h => ?_⟩
  · exact exec_create_of_not_configValid (configValid_eq_false h) src0 src1 timeout
  · refine exec_cycle_of_not_bindingValid (bindingValid_eq_false ?_) rst d1n d0n
    rcases h with hinf | hacc | hms | hpoll | hwide | hclk
    · exact .inr (.inl hinf)
    · exact .inl (configValid_eq_false (.inl hacc))
    · exact .inl (configValid_eq_false (.inr (.inl hms)))
    · exact .inl (configValid_eq_false (.inr (.inr hpoll)))
    · exact .inr (.inr (.inl hwide))
    · exact .inr (.inr (.inr hclk))

end Sys2Proof.Machine
end

section
/-! The statements of spec/10_state.md: the invariants of every reachable state (R20, R41), the transitions of the control
state (R29), LAT while idle (R37), and who writes which register (R20 to R34, R39). -/

namespace Sys2Proof.Machine

open Sys2Proof.Safety

/-! ### The next states of an operation that starts no block -/

/-- Every next state of an operation other than CREATE and a cycle with rst = 1: the writes of the frame decoder or of a
clock cycle in a block that is not halted, at most an answer, or the strobe cleared in a halted block. -/
theorem exec_next_of_no_reset {i : Instr} {s s' : State} (h : exec i s = .next s')
    (hcreate : ∀ a b t, i ≠ .create a b t) (hrst : ∀ x y, i ≠ .cycle true x y) :
    (∃ w, frameWrite i = some w ∧ live s = true ∧ s' = w s) ∨
    (∃ r, s' = { s with reply := r }) ∨
    (∃ x y, i = .cycle false x y ∧ halted s = true ∧ s' = clearStrobe s) ∨
    (∃ x y, i = .cycle false x y ∧ halted s = false ∧ s' = liveCycle x y s) := by
  rcases exec_next h with ⟨w, hw, -, ⟨-, rfl⟩ | ⟨hl, rfl⟩⟩ | ⟨a, b, t, rfl, -⟩ | ⟨r, x, y, rfl, hcycle⟩ | ⟨-, hreply⟩
  · exact .inr (.inl ⟨s'.reply, rfl⟩)
  · exact .inl ⟨w, hw, hl, rfl⟩
  · exact absurd rfl (hcreate a b t)
  · obtain ⟨-, ⟨rfl, -⟩ | ⟨rfl, hh, rfl⟩ | ⟨rfl, hh, rfl⟩⟩ := execCycle_next hcycle
    · exact absurd rfl (hrst x y)
    · exact .inr (.inr (.inl ⟨x, y, rfl, hh, rfl⟩))
    · exact .inr (.inr (.inr ⟨x, y, rfl, hh, rfl⟩))
  · exact .inr (.inl hreply)

/-- What an operation of the frame decoder writes, by the operation it is: a subscriber, a bit from a registered line, a
fault from an unregistered port, or what its poll tick does. -/
theorem frameWrite_cases {i : Instr} {w : State → State} (h : frameWrite i = some w) (s : State) :
    (∃ k, i = .subscribe k ∧ w s = addSub k s) ∨
    (∃ b t, ((∃ p, i = .edge p t) ∨ i = .edge0 t ∨ i = .edge1 t) ∧ w s = shiftIn b t s) ∨
    (∃ p t, (i = .edgex p t ∨ i = .edge p t ∧ p ≠ s.portA ∧ p ≠ s.portB) ∧ w s = raiseInvalidPort p s) ∨
    (∃ now, i = .tick now ∧ (w s = s ∨ s.acc ≠ 0 ∧ w s = finalize s)) := by
  cases i <;> simp only [frameWrite, Option.some.injEq, reduceCtorEq] at h <;> subst h
  case subscribe k => exact .inl ⟨k, rfl, rfl⟩
  case edge p t =>
    rcases edgeOn_cases p t s with ⟨-, he⟩ | ⟨-, -, he⟩ | ⟨ha, hb, he⟩
    · exact .inr (.inl ⟨false, t, .inl ⟨p, rfl⟩, he⟩)
    · exact .inr (.inl ⟨true, t, .inl ⟨p, rfl⟩, he⟩)
    · exact .inr (.inr (.inl ⟨p, t, .inr ⟨rfl, ha, hb⟩, he⟩))
  case edge0 t => exact .inr (.inl ⟨false, t, .inr (.inl rfl), rfl⟩)
  case edge1 t => exact .inr (.inl ⟨true, t, .inr (.inr rfl), rfl⟩)
  case edgex p t => exact .inr (.inr (.inl ⟨p, t, .inl rfl, rfl⟩))
  case tick now =>
    rcases pollTick_cases now s with ⟨hacc, -, hw⟩ | ⟨-, hw⟩
    · exact .inr (.inr (.inr ⟨now, rfl, .inr ⟨hacc, hw⟩⟩))
    · exact .inr (.inr (.inr ⟨now, rfl, .inl hw⟩))

/-- The frame of the frame decoder: it writes ACC, LAT, SUBS, OUT and FAULT only. -/
theorem frameWrite_frame {i : Instr} {w : State → State} (h : frameWrite i = some w) (s : State) :
    w s = { s with acc := (w s).acc, lat := (w s).lat, subs := (w s).subs, out := (w s).out, fault := (w s).fault } := by
  rcases frameWrite_cases h s with ⟨k, -, hw⟩ | ⟨b, t, -, hw⟩ | ⟨p, t, -, hw⟩ | ⟨now, -, hw | ⟨-, hw⟩⟩ <;> rw [hw] <;> rfl

theorem fault_of_live {s : State} (h : live s = true) : s.fault = .none :=
  (not_halted_iff s).1 ((live_iff s).1 h).2

/-! ### The invariants (R20, R41): one lemma for each write -/

section

variable {s : State}

/-- The fields of the model's own are in no invariant. -/
theorem inv_ownFields (h : Inv s) (reply : Option Reply) (draws : Nat) (trace : List Input) :
    Inv { s with reply := reply, draws := draws, trace := trace } := { h with }

theorem inv_addSub (h : Inv s) (hf : s.fault = .none) (k : Nat) : Inv (addSub k s) :=
  { h with noDecoder := fun cause hc => by simp [hf] at hc }

theorem inv_shiftIn (h : Inv s) (b : Bool) (t : Int) : Inv (shiftIn b t s) :=
  { h with acc := fitsAcc_trunc s.par _ }

/-- R41(c): a finalize of a nonzero ACC emits a nonzero value. -/
theorem inv_finalize (h : Inv s) (hf : s.fault = .none) (hacc : s.acc ≠ 0) : Inv (finalize s) :=
  { h with
    acc := fitsAcc_zero s.par
    outNonzero := by
      intro e he
      rcases List.mem_append.1 he with he | he
      · exact h.outNonzero e he
      · rw [List.mem_singleton.1 he]; exact hacc
    noDecoder := fun cause hc => by simp [hf] at hc }

/-- R158: the strobe of a finalize shows a nonzero value that ACC held. -/
theorem inv_finalizeToPins (h : Inv s) (hf : s.fault = .none) (hacc : s.acc ≠ 0) : Inv (finalizeToPins s) :=
  { inv_finalize h hf hacc with outRaw := h.acc, strobe := fun _ => hacc }

theorem inv_raiseInvalidPort (h : Inv s) (hc : s.created = true) (p : Nat) : Inv (raiseInvalidPort p s) :=
  { h with
    config := by simp [live, halted]
    uncreated := by simp [hc]
    noDecoder := by simp }

theorem inv_raiseConfiguration (h : Inv s) (cause : ConfigCause) : Inv (raiseConfiguration cause s) :=
  { h with
    config := by simp [live, halted]
    outNonzero := by simp
    uncreated := by simp
    noDecoder := by simp }

/-- R36: a fresh block has the invariants, whatever state it replaces, when its configuration is legal or it took a
fault. -/
theorem inv_freshBlock (hv : configValid s.par = true) {a b : Nat} {timeout : Int} {fault : FaultReg}
    (hlegal : fault = .none → a ≠ b ∧ 0 < timeout) (lat : Int) :
    Inv { freshBlock a b timeout lat s with fault := fault } where
  params := hv
  acc := fitsAcc_zero s.par
  outRaw := fitsAcc_zero s.par
  now := Nat.two_pow_pos _
  pcnt := by
    obtain ⟨-, -, hpoll⟩ := (configValid_iff s.par).1 hv
    exact Nat.sub_lt hpoll Nat.one_pos
  config hl := hlegal (fault_of_live hl)
  outNonzero := nofun
  strobe := nofun
  uncreated := nofun
  noDecoder _ _ := ⟨rfl, rfl⟩

/-- R161: rst takes no fault only with a positive static timeout. -/
theorem resetFault_eq_none_iff (par : Config) : resetFault par = .none ↔ 0 < par.tInact := by
  rw [resetFault]; split <;> simp <;> omega

theorem inv_resetCycle (hv : configValid s.par = true) : Inv (resetCycle s) :=
  inv_ownFields (inv_freshBlock hv
    (fun hf => ⟨by decide, Int.natCast_pos.2 ((resetFault_eq_none_iff s.par).1 hf)⟩) _) _ _ _

theorem inv_clearStrobe (h : Inv s) : Inv (clearStrobe s) := { h with strobe := nofun }

theorem inv_applyCycleEvent (h : Inv s) (hf : s.fault = .none) (e : CycleEvent) : Inv (applyCycleEvent s e) := by
  cases e with
  | edge0 => exact inv_shiftIn h false _
  | edge1 => exact inv_shiftIn h true _
  | tick =>
    rw [applyCycleEvent]
    split
    · rename_i hfire; exact inv_finalizeToPins h hf ((fireMod_iff s).1 hfire).1
    · exact h

theorem inv_cycleApplied (h : Inv s) (hf : s.fault = .none) (d1n d0n : Bool) : Inv (cycleApplied d1n d0n s) := by
  have both : Inv (cycleApplied d1n d0n s) ∧ (cycleApplied d1n d0n s).fault = .none :=
    cycleApplied_induct (P := fun t => Inv t ∧ t.fault = .none) d1n d0n ⟨inv_clearStrobe h, hf⟩
      fun t e ⟨ht, htf⟩ => ⟨inv_applyCycleEvent ht htf e, by rw [applyCycleEvent_fault, htf]⟩
  exact both.1

/-- R155, R156: NOW stays within TS_W bits and PCNT below T_POLL. -/
theorem inv_advance (h : Inv s) (d1n d0n : Bool) : Inv (advance d1n d0n s) :=
  { h with
    now := Nat.mod_lt _ (Nat.two_pow_pos _)
    pcnt := by
      have := h.pcnt
      rw [advance_pcnt, advance_par]
      split <;> omega }

theorem inv_liveCycle (h : Inv s) (hf : s.fault = .none) (d1n d0n : Bool) : Inv (liveCycle d1n d0n s) := by
  obtain ⟨n, hn⟩ := liveCycle_eq d1n d0n s
  rw [hn]
  exact inv_advance (inv_ownFields (inv_cycleApplied h hf d1n d0n) _ n _) d1n d0n

end

theorem inv_frameWrite {i : Instr} {w : State → State} (hw : frameWrite i = some w) {s : State} (h : Inv s)
    (hl : live s = true) : Inv (w s) := by
  have hf := fault_of_live hl
  rcases frameWrite_cases hw s with ⟨k, -, he⟩ | ⟨b, t, -, he⟩ | ⟨p, t, -, he⟩ | ⟨now, -, he | ⟨hacc, he⟩⟩ <;> rw [he]
  · exact inv_addSub h hf k
  · exact inv_shiftIn h b t
  · exact inv_raiseInvalidPort h ((live_iff s).1 hl).1 p
  · exact h
  · exact inv_finalize h hf hacc

theorem inv_exec {i : Instr} {s s' : State} (h : Inv s) (he : exec i s = .next s') : Inv s' := by
  rcases exec_next he with ⟨w, hw, -, ⟨-, rfl⟩ | ⟨hl, rfl⟩⟩ | ⟨a, b, t, -, hcreate⟩ | ⟨r, x, y, -, hcycle⟩ | ⟨-, r, rfl⟩
  · exact h
  · exact inv_frameWrite hw h hl
  · obtain ⟨hv, ⟨cause, -, rfl⟩ | ⟨hnone, rfl⟩⟩ := execCreate_next hcreate
    · exact inv_raiseConfiguration h cause
    · obtain ⟨p, q, rfl, rfl, hpq, ht⟩ := createCause_none hnone
      exact inv_ownFields (inv_freshBlock hv (fun _ => ⟨hpq, ht⟩) _) _ _ _
  · obtain ⟨-, ⟨-, rfl⟩ | ⟨-, -, rfl⟩ | ⟨-, hh, rfl⟩⟩ := execCycle_next hcycle
    · exact inv_resetCycle h.params
    · exact inv_clearStrobe h
    · exact inv_liveCycle h ((not_halted_iff s).1 hh) x y
  · exact inv_ownFields h r _ _

/-- A step waits, or is an operation applied to the state without it. -/
theorem step_next {s s' : State} (h : step s = .next s') :
    s' = s ∨ ∃ i rest, exec i { s with trace := rest } = .next s' := by
  cases ht : s.trace with
  | nil =>
    rw [step_of_fetch_none (fetch_of_trace_nil ht)] at h
    cases h; exact .inl rfl
  | cons input rest =>
    have hfetch := fetch_of_trace_cons ht
    cases hd : decodeInput input with
    | error why =>
      rw [hd] at hfetch
      rw [step_of_fetch_error hfetch] at h
      cases h
    | ok i =>
      rw [hd] at hfetch
      rw [step_of_fetch_ok hfetch] at h
      exact .inr ⟨i, rest, h⟩

/-- Settles O41: in both states every invariant is a fact about the values written there. -/
theorem invariantsHoldAtReset : Obligations.InvariantsHoldAtReset := by
  have reset : Inv State.reset :=
    { params := by decide
      acc := fitsAcc_zero _
      outRaw := fitsAcc_zero _
      now := by decide
      pcnt := by decide
      config := fun _ => by decide
      outNonzero := nofun
      strobe := nofun
      uncreated := nofun
      noDecoder := nofun }
  exact ⟨reset, { reset with config := nofun, uncreated := fun _ => rfl }⟩

/-- Settles O42, by the invariants of every write. -/
theorem everyStepKeepsTheInvariants : Obligations.EveryStepKeepsTheInvariants := by
  intro s s' h hstep
  rcases step_next hstep with rfl | ⟨i, rest, hexec⟩
  · exact h
  · exact inv_exec (inv_ownFields h _ _ rest) hexec

/-! ### The control state (R28, R29) -/

theorem controlState_eq_idle_iff (s : State) : controlState s = .idle ↔ s.acc = 0 := by
  rw [controlState]; split <;> simp [*]

theorem controlState_eq_collect_iff (s : State) : controlState s = .collect ↔ s.acc ≠ 0 := by
  rw [controlState]; split <;> simp [*]

/-- R28: finalize is the inside of a transition, not the control state of a State. -/
theorem controlState_ne_finalize (s : State) : controlState s ≠ .finalize := by
  rw [controlState]; split <;> nofun

theorem pollTick_of_idle {s : State} (h : s.acc = 0) (now : Int) : pollTick now s = s := by
  rcases pollTick_cases now s with ⟨hacc, -, -⟩ | ⟨-, he⟩
  · exact absurd h hacc
  · exact he

/-- R108 to R110: in collect a tick finalizes when the time has expired, and else waits. -/
theorem pollTick_of_collect {s : State} (h : s.acc ≠ 0) (now : Int) :
    pollTick now s = if expired s now then finalize s else s := by
  simp [pollTick, fire, idle, h]

/-- R106: a reduced odd value is not 0, since ACC_W is at least 26. -/
theorem trunc_odd_ne_zero {par : Config} (h : configValid par = true) (v : Nat) : trunc par (2 * v + 1) ≠ 0 := by
  have := trunc_mod_two h (2 * v + 1)
  omega

/-- Settles O22, clause by clause from the write of the operation in a running block. -/
theorem controlStateTransitions : Obligations.ControlStateTransitions := by
  intro s s' i hl hv h
  have write {w : State → State} (hw : frameWrite i = some w) : s' = w s := by
    rw [exec_of_live hl hw] at h; cases h; rfl
  refine ⟨controlState_ne_finalize s', ?_, ?_, ?_, ?_, ?_, ?_⟩
  · rintro t rfl
    rw [write rfl, controlState_eq_idle_iff, shiftIn_acc, shiftBit_eq, Bool.toNat_false, Nat.add_zero]
  · rintro t rfl hidle
    rw [controlState_eq_idle_iff] at hidle
    simp [write rfl, controlState_eq_idle_iff, hidle]
  · rintro t rfl
    rw [write rfl, controlState_eq_collect_iff, shiftIn_acc, shiftBit_eq]
    exact trunc_odd_ne_zero hv s.acc
  · rintro now rfl hidle
    rwa [write rfl, pollTick_of_idle ((controlState_eq_idle_iff s).1 hidle)]
  · rintro now rfl hcollect
    rw [write rfl, pollTick_of_collect ((controlState_eq_collect_iff s).1 hcollect)]
    split
    · rw [controlState_eq_idle_iff, finalize_acc]
    · exact hcollect
  · rintro p t rfl
    rw [write rfl]
    exact ⟨rfl, by simp [halted]⟩

/-! ### LAT while ACC = 0 (R37) -/

/-- R37: two states that differ in LAT at most, and not in LAT while ACC ≠ 0. -/
def AgreeButLat (s t : State) : Prop := ∃ lat, t = { s with lat := lat } ∧ (s.acc ≠ 0 → lat = s.lat)

theorem AgreeButLat.refl (s : State) : AgreeButLat s s := ⟨s.lat, rfl, fun _ => rfl⟩

/-- R37: LAT can differ in an idle state only. -/
theorem AgreeButLat.eq_or_idle {s t : State} (h : AgreeButLat s t) : t = s ∨ s.acc = 0 := by
  obtain ⟨lat, rfl, hlat⟩ := h
  by_cases hacc : s.acc = 0
  · exact .inr hacc
  · exact .inl (by rw [hlat hacc])

theorem AgreeButLat.acc_eq {s t : State} (h : AgreeButLat s t) : t.acc = s.acc := by
  obtain ⟨lat, rfl, -⟩ := h; rfl

section

variable {s t : State}

theorem agreeButLat_addSub (h : AgreeButLat s t) (k : Nat) : AgreeButLat (addSub k s) (addSub k t) := by
  obtain ⟨lat, rfl, hlat⟩ := h; exact ⟨lat, rfl, hlat⟩

/-- An edge overwrites LAT, so the difference ends with it. -/
theorem agreeButLat_shiftIn (h : AgreeButLat s t) (b : Bool) (u : Int) :
    AgreeButLat (shiftIn b u s) (shiftIn b u t) := by
  obtain ⟨lat, rfl, -⟩ := h; exact .refl _

theorem agreeButLat_raiseInvalidPort (h : AgreeButLat s t) (p : Nat) :
    AgreeButLat (raiseInvalidPort p s) (raiseInvalidPort p t) := by
  obtain ⟨lat, rfl, hlat⟩ := h; exact ⟨lat, rfl, hlat⟩

theorem agreeButLat_edgeOn (h : AgreeButLat s t) (p : Nat) (u : Int) :
    AgreeButLat (edgeOn p u s) (edgeOn p u t) := by
  have portA : t.portA = s.portA := by obtain ⟨lat, rfl, -⟩ := h; rfl
  have portB : t.portB = s.portB := by obtain ⟨lat, rfl, -⟩ := h; rfl
  unfold edgeOn
  rw [portA, portB]
  split
  · exact agreeButLat_shiftIn h false u
  · split
    · exact agreeButLat_shiftIn h true u
    · exact agreeButLat_raiseInvalidPort h p

/-- R27: a tick compares with LAT only while ACC ≠ 0. -/
theorem agreeButLat_pollTick (h : AgreeButLat s t) (now : Int) : AgreeButLat (pollTick now s) (pollTick now t) := by
  rcases h.eq_or_idle with rfl | hidle
  · exact .refl _
  · rwa [pollTick_of_idle hidle, pollTick_of_idle (h.acc_eq.trans hidle)]

theorem applyCycleEvent_tick_of_idle (h : s.acc = 0) : applyCycleEvent s .tick = s := by
  simp [applyCycleEvent, fireMod, idle, h]

theorem agreeButLat_applyCycleEvent (h : AgreeButLat s t) (e : CycleEvent) :
    AgreeButLat (applyCycleEvent s e) (applyCycleEvent t e) := by
  have now : t.now = s.now := by obtain ⟨lat, rfl, -⟩ := h; rfl
  cases e with
  | edge0 => rw [applyCycleEvent, applyCycleEvent, now]; exact agreeButLat_shiftIn h false _
  | edge1 => rw [applyCycleEvent, applyCycleEvent, now]; exact agreeButLat_shiftIn h true _
  | tick =>
    rcases h.eq_or_idle with rfl | hidle
    · exact .refl _
    · rwa [applyCycleEvent_tick_of_idle hidle, applyCycleEvent_tick_of_idle (h.acc_eq.trans hidle)]

theorem agreeButLat_foldl (h : AgreeButLat s t) (events : List CycleEvent) :
    AgreeButLat (events.foldl applyCycleEvent s) (events.foldl applyCycleEvent t) := by
  induction events generalizing s t with
  | nil => exact h
  | cons e events ih => exact ih (agreeButLat_applyCycleEvent h e)

/-- R164: which events a cycle has, and their order, does not depend on LAT. -/
theorem agreeButLat_cycleApplied (h : AgreeButLat s t) (d1n d0n : Bool) :
    AgreeButLat (cycleApplied d1n d0n s) (cycleApplied d1n d0n t) := by
  obtain ⟨lat, rfl, hlat⟩ := h
  exact agreeButLat_foldl (s := clearStrobe s) ⟨lat, rfl, hlat⟩ (cycleEvents s d1n d0n)

theorem agreeButLat_liveCycle (h : AgreeButLat s t) (d1n d0n : Bool) :
    AgreeButLat (liveCycle d1n d0n s) (liveCycle d1n d0n t) := by
  have drawn : orderDrawn t d1n d0n = orderDrawn s d1n d0n := by obtain ⟨lat, rfl, -⟩ := h; rfl
  obtain ⟨lat, happlied, hlat⟩ := agreeButLat_cycleApplied h d1n d0n
  unfold liveCycle
  rw [drawn, happlied]
  dsimp only
  split <;> exact ⟨lat, rfl, hlat⟩

/-- The guard of R117 does not read LAT. -/
theorem agreeButLat_whenLive {s' : State} {w : State → State} (h : AgreeButLat s t)
    (hw : AgreeButLat (w s) (w t)) (hs : whenLive s w = .next s') :
    ∃ t', whenLive t w = .next t' ∧ AgreeButLat s' t' := by
  have created : t.created = s.created := by obtain ⟨lat, rfl, -⟩ := h; rfl
  have fault : t.fault = s.fault := by obtain ⟨lat, rfl, -⟩ := h; rfl
  obtain ⟨hc, ⟨hh, rfl⟩ | ⟨hl, rfl⟩⟩ := whenLive_next hs
  · exact ⟨t, whenLive_of_halted (created.trans hc) (by rwa [halted, fault]) w, h⟩
  · exact ⟨w t, whenLive_of_live (by rwa [live, halted, created, fault]) w, hw⟩

theorem agreeButLat_execCreate {s' : State} {src0 src1 : Option Nat} {timeout : Option Int} (h : AgreeButLat s t)
    (hs : execCreate src0 src1 timeout s = .next s') :
    ∃ t', execCreate src0 src1 timeout t = .next t' ∧ AgreeButLat s' t' := by
  obtain ⟨lat, rfl, hlat⟩ := h
  obtain ⟨hv, ⟨cause, hc, rfl⟩ | ⟨hc, rfl⟩⟩ := execCreate_next hs
  · exact ⟨raiseConfiguration cause { s with lat := lat }, by simp [execCreate, hv, hc], lat, rfl, hlat⟩
  · exact ⟨_, by simp only [execCreate, hv, hc]; rfl, .refl _⟩

theorem agreeButLat_execCycle {s' : State} {rst d1n d0n : Bool} (h : AgreeButLat s t)
    (hs : execCycle rst d1n d0n s = .next s') :
    ∃ t', execCycle rst d1n d0n t = .next t' ∧ AgreeButLat s' t' := by
  have cycle := agreeButLat_liveCycle h d1n d0n
  obtain ⟨lat, rfl, hlat⟩ := h
  have fault : halted { s with lat := lat } = halted s := rfl
  obtain ⟨hv, ⟨rfl, rfl⟩ | ⟨rfl, hh, rfl⟩ | ⟨rfl, hh, rfl⟩⟩ := execCycle_next hs
  · exact ⟨resetCycle s, by simp only [execCycle, hv]; rfl, .refl _⟩
  · exact ⟨clearStrobe { s with lat := lat }, by simp [execCycle, hv, fault, hh], lat, rfl, hlat⟩
  · exact ⟨liveCycle d1n d0n { s with lat := lat }, by simp [execCycle, hv, fault, hh], cycle⟩

theorem agreeButLat_exec {s' : State} {i : Instr} (h : AgreeButLat s t) (hs : exec i s = .next s') :
    ∃ t', exec i t = .next t' ∧ AgreeButLat s' t' := by
  cases i
  case create a b u => exact agreeButLat_execCreate h hs
  case subscribe k => exact agreeButLat_whenLive h (agreeButLat_addSub h k) hs
  case edge p u => exact agreeButLat_whenLive h (agreeButLat_edgeOn h p u) hs
  case edge0 u => exact agreeButLat_whenLive h (agreeButLat_shiftIn h false u) hs
  case edge1 u => exact agreeButLat_whenLive h (agreeButLat_shiftIn h true u) hs
  case edgex p u => exact agreeButLat_whenLive h (agreeButLat_raiseInvalidPort h p) hs
  case tick now => exact agreeButLat_whenLive h (agreeButLat_pollTick h now) hs
  case cycle rst d1n d0n => exact agreeButLat_execCycle h hs
  case nop | fromraw | lpb | fc | cn | tpb | isvalid | tostring =>
    obtain ⟨lat, rfl, hlat⟩ := h
    cases hs
    exact ⟨_, rfl, lat, rfl, hlat⟩

theorem agreeButLat_runEvents {s' : State} {events : List Instr} (h : AgreeButLat s t)
    (hs : runEvents events s = .next s') : ∃ t', runEvents events t = .next t' ∧ AgreeButLat s' t' := by
  induction events generalizing s t with
  | nil => cases hs; exact ⟨t, rfl, h⟩
  | cons i events ih =>
    obtain ⟨s1, hi, hrest⟩ := runEvents_cons_next hs
    obtain ⟨t1, hi1, h1⟩ := agreeButLat_exec h hi
    rw [runEvents_cons hi1]
    exact ih h1 hrest

end

/-- Settles O40: every operation keeps the agreement of two states that differ in LAT only while ACC = 0. -/
theorem latWhileIdleIsUnobservable : Obligations.LatWhileIdleIsUnobservable := by
  intro s s1 lat events hidle hrun
  obtain ⟨_, ht, lat1, rfl, hlat⟩ := agreeButLat_runEvents ⟨lat, rfl, fun hacc => absurd hidle hacc⟩ hrun
  exact ⟨lat1, ht, hlat⟩

/-! ### Who writes which register (R20 to R26, R39) -/

/-- R7: nothing writes the static parameters. -/
theorem exec_par {i : Instr} {s s' : State} (h : exec i s = .next s') : s'.par = s.par := by
  rcases exec_next h with ⟨w, hw, -, ⟨-, rfl⟩ | ⟨-, rfl⟩⟩ | ⟨a, b, t, -, hcreate⟩ | ⟨r, x, y, -, hcycle⟩ | ⟨-, r, rfl⟩
  · rfl
  · rw [frameWrite_frame hw s]
  · obtain ⟨-, ⟨cause, -, rfl⟩ | ⟨-, rfl⟩⟩ := execCreate_next hcreate <;> rfl
  · obtain ⟨-, ⟨-, rfl⟩ | ⟨-, -, rfl⟩ | ⟨-, -, rfl⟩⟩ := execCycle_next hcycle
    · rfl
    · rfl
    · exact liveCycle_par x y s
  · rfl

/-- Settles O43: CFG is in the frame of the frame decoder's writes and of a live cycle. -/
theorem configurationIsImmutable : Obligations.ConfigurationIsImmutable := by
  refine fun s s' i h => ⟨exec_par h, fun hcreate hrst => ?_⟩
  rcases exec_next_of_no_reset h hcreate hrst with ⟨w, hw, -, rfl⟩ | ⟨r, rfl⟩ | ⟨x, y, -, -, rfl⟩ | ⟨x, y, -, -, rfl⟩
  · rw [frameWrite_frame hw s]; exact ⟨rfl, rfl, rfl, rfl⟩
  · exact ⟨rfl, rfl, rfl, rfl⟩
  · exact ⟨rfl, rfl, rfl, rfl⟩
  · simp

/-- Settles O44: a halted block can only answer a query or clear its strobe. -/
theorem faultIsStickyAndFreezesTheBlock : Obligations.FaultIsStickyAndFreezesTheBlock := by
  intro s s' i hh h hcreate hrst
  rcases exec_next_of_no_reset h hcreate hrst with ⟨w, -, hl, -⟩ | ⟨r, rfl⟩ | ⟨x, y, -, -, rfl⟩ | ⟨x, y, -, hn, -⟩
  · simp [live, hh] at hl
  · exact ⟨rfl, rfl, rfl, rfl, rfl⟩
  · exact ⟨rfl, rfl, rfl, rfl, rfl⟩
  · simp [hh] at hn

/-- Settles O45: the writes of the frame decoder, by the operation each belongs to. -/
theorem onlyTheNamedOperationsWrite : Obligations.OnlyTheNamedOperationsWrite := by
  intro s s' i h hcreate hcycle
  rcases exec_next_of_no_reset h hcreate (hcycle true) with
    ⟨w, hw, -, rfl⟩ | ⟨r, rfl⟩ | ⟨x, y, rfl, -, -⟩ | ⟨x, y, rfl, -, -⟩
  · rcases frameWrite_cases hw s with
      ⟨k, rfl, he⟩ | ⟨b, t, ⟨p, rfl⟩ | rfl | rfl, he⟩ | ⟨p, t, rfl | ⟨rfl, -, -⟩, he⟩ | ⟨now, rfl, he | ⟨-, he⟩⟩ <;>
      simp [he]
  · simp
  · exact absurd rfl (hcycle false x y)
  · exact absurd rfl (hcycle false x y)

/-- Settles O47: SUBSCRIBE appends to SUBS, and a finalize, of which a cycle has at most one, appends to OUT. -/
theorem subscribersAndOutputOnlyGrow : Obligations.SubscribersAndOutputOnlyGrow := by
  intro s s' i h hcreate hrst
  rcases exec_next_of_no_reset h hcreate hrst with ⟨w, hw, -, rfl⟩ | ⟨r, rfl⟩ | ⟨x, y, -, -, rfl⟩ | ⟨x, y, -, -, rfl⟩
  · rcases frameWrite_cases hw s with ⟨k, -, he⟩ | ⟨b, t, -, he⟩ | ⟨p, t, -, he⟩ | ⟨now, -, he | ⟨-, he⟩⟩ <;> rw [he]
    · exact ⟨List.prefix_append _ _, .inl rfl⟩
    · exact ⟨List.prefix_rfl, .inl rfl⟩
    · exact ⟨List.prefix_rfl, .inl rfl⟩
    · exact ⟨List.prefix_rfl, .inl rfl⟩
    · exact ⟨List.prefix_rfl, .inr ⟨_, rfl, rfl⟩⟩
  · exact ⟨List.prefix_rfl, .inl rfl⟩
  · exact ⟨List.prefix_rfl, .inl rfl⟩
  · rw [liveCycle_subs, liveCycle_out]
    exact ⟨List.prefix_rfl, cycleApplied_out x y s⟩

/-- R196: an operation of line A, of line B or of the poller is one of the frame decoder, which is its writes or, in a
halted block, nothing. -/
theorem exec_next_of_agentOf {s s' : State} {i : Instr} {agent : Agent} (ha : agentOf s i = some agent)
    (hne : agent ≠ .host) (h : exec i s = .next s') : ∃ w, frameWrite i = some w ∧ (s' = s ∨ s' = w s) := by
  have decoder : ∃ w, frameWrite i = some w := by
    cases i
    case create | fromraw | lpb | fc | cn | tpb | isvalid | tostring => exact absurd (Option.some.inj ha).symm hne
    case nop | cycle => cases ha
    all_goals exact ⟨_, rfl⟩
  obtain ⟨w, hw⟩ := decoder
  rw [exec_frameWrite hw] at h
  obtain ⟨-, ⟨-, he⟩ | ⟨-, he⟩⟩ := whenLive_next h
  · exact ⟨w, hw, .inl he⟩
  · exact ⟨w, hw, .inr he⟩

/-- R39: an operation of a line shifts a bit in. -/
theorem frameWrite_of_line {i : Instr} {w : State → State} (hw : frameWrite i = some w) {s : State}
    (ha : agentOf s i = some .irqA ∨ agentOf s i = some .irqB) : ∃ b t, w s = shiftIn b t s := by
  rcases frameWrite_cases hw s with
    ⟨k, rfl, -⟩ | ⟨b, t, -, he⟩ | ⟨p, t, rfl | ⟨rfl, hA, hB⟩, -⟩ | ⟨now, rfl, -⟩
  · simp [agentOf] at ha
  · exact ⟨b, t, he⟩
  · simp [agentOf] at ha
  · simp [agentOf, hA, hB] at ha
  · simp [agentOf] at ha

/-- R39: an operation of the poller is a TICK. -/
theorem eq_tick_of_poller {s : State} {i : Instr} (ha : agentOf s i = some .poller) : ∃ now, i = .tick now := by
  cases i
  case tick now => exact ⟨now, rfl⟩
  case edge p t => rw [agentOf] at ha; split_ifs at ha <;> cases ha
  all_goals cases ha

/-- Settles O46: a line shifts a bit in, and a poll tick finalizes or does nothing. -/
theorem agentsWriteTheirOwnState : Obligations.AgentsWriteTheirOwnState := by
  intro s s' i _ h
  have line (ha : agentOf s i = some .irqA ∨ agentOf s i = some .irqB) :
      s' = { s with acc := s'.acc, lat := s'.lat } := by
    obtain ⟨w, hw, rfl | he⟩ : ∃ w, frameWrite i = some w ∧ (s' = s ∨ s' = w s) := by
      rcases ha with ha | ha <;> exact exec_next_of_agentOf ha (by decide) h
    · rfl
    · obtain ⟨b, t, hshift⟩ := frameWrite_of_line hw ha
      rw [he, hshift]; rfl
  refine ⟨fun ha => line (.inl ha), fun ha => line (.inr ha), fun ha => ?_⟩
  obtain ⟨now, rfl⟩ := eq_tick_of_poller ha
  obtain ⟨-, ⟨-, rfl⟩ | ⟨-, rfl⟩⟩ := whenLive_next h
  · rfl
  · rcases pollTick_cases now s with ⟨-, -, he⟩ | ⟨-, he⟩
    · rw [he]; rfl
    · rw [he]

/-! ### The reset state (R36, R152) -/

theorem exec_rst {s : State} (h : bindingValid s.par = true) (d1n d0n : Bool) :
    exec (.cycle true d1n d0n) s = .next (resetCycle s) := by
  simp [exec, execCycle, h]

/-- Settles O7: rst writes every field that the hypotheses leave open. -/
theorem resetIsWhatRstLeaves : Obligations.ResetIsWhatRstLeaves := by
  intro s d1n d0n hpar hdraws hreply htrace
  have reset : resetCycle s = State.reset := by
    simp only [resetCycle, countDraw, freshBlock, drawLat, hpar, hdraws, hreply, htrace]; rfl
  rw [exec_rst (by rw [hpar]; decide), reset]

end Sys2Proof.Machine
end

section
/-! The statements of spec/20_memory.md: an edge and a tick in either order around a finalize (R59, R221, R234). -/

namespace Sys2Proof.Machine

open Sys2Proof.Safety

/-! ### An edge and a tick in a running block -/

@[simp] theorem live_shiftIn (b : Bool) (t : Int) (s : State) : live (shiftIn b t s) = live s := rfl

@[simp] theorem live_finalize (s : State) : live (finalize s) = live s := rfl

/-- R104 to R106: the edge of either line shifts its bit in. -/
theorem exec_edge_of_live {s : State} (hl : live s = true) (bit : Bool) (t : Int) :
    exec (if bit then .edge1 t else .edge0 t) s = .next (shiftIn bit t s) := by
  cases bit <;> exact exec_of_live hl rfl

theorem exec_tick_of_live {s : State} (hl : live s = true) (now : Int) :
    exec (.tick now) s = .next (pollTick now s) :=
  exec_of_live hl rfl

/-- R110: in collect a tick over the timeout is a finalize. -/
theorem pollTick_of_expired {s : State} {now : Int} (hacc : s.acc ≠ 0) (h : s.tInact < now - s.lat) :
    pollTick now s = finalize s := by
  rw [pollTick, if_pos ((fire_iff s now).2 ⟨hacc, h⟩)]

/-- R109: a tick not over the timeout changes nothing. -/
theorem pollTick_of_waiting {s : State} {now : Int} (h : now - s.lat ≤ s.tInact) : pollTick now s = s := by
  rw [pollTick, if_neg fun hfire => absurd ((fire_iff s now).1 hfire).2 (by omega)]

theorem shiftIn_eq (b : Bool) (t : Int) (s : State) :
    shiftIn b t s = { s with acc := trunc s.par (2 * s.acc + b.toNat), lat := t } := by
  rw [shiftIn, shiftBit_eq]

/-- R12, R113: the first bit of a frame needs no reduction. -/
theorem trunc_bit {par : Config} (h : configValid par = true) (b : Bool) : trunc par b.toNat = b.toNat :=
  trunc_of_fitsAcc (fitsAcc_of_lt h (by cases b <;> decide))

/-- R113(a): after a finalize the bit is alone in ACC. -/
theorem shiftIn_finalize {s : State} (h : configValid s.par = true) (b : Bool) (t : Int) :
    shiftIn b t (finalize s) =
      { s with acc := b.toNat, lat := t, out := s.out ++ [{ raw := s.acc, subs := s.subs }] } := by
  rw [shiftIn_eq, finalize_acc, finalize_par, Nat.mul_zero, Nat.zero_add, trunc_bit h]
  rfl

theorem runEvents_tick_edge {s : State} (hl : live s = true) (now t : Int) (bit : Bool) :
    runEvents [.tick now, if bit then .edge1 t else .edge0 t] s = .next (shiftIn bit t (pollTick now s)) := by
  have hlive : live (pollTick now s) = true := by
    rcases pollTick_cases now s with ⟨-, -, he⟩ | ⟨-, he⟩ <;> simpa [he] using hl
  rw [runEvents_cons (exec_tick_of_live hl now), runEvents_cons (exec_edge_of_live hlive bit t), runEvents_nil]

theorem runEvents_edge_tick {s : State} (hl : live s = true) (now t : Int) (bit : Bool) :
    runEvents [if bit then .edge1 t else .edge0 t, .tick now] s = .next (pollTick now (shiftIn bit t s)) := by
  have hlive : live (shiftIn bit t s) = true := by simpa using hl
  rw [runEvents_cons (exec_edge_of_live hl bit t), runEvents_cons (exec_tick_of_live hlive now), runEvents_nil]

/-- Settles O36: with the tick first the bit meets a finalized state; with the edge first the tick compares with the
edge's time, and meets the frame with the bit in it. -/
theorem noLostUpdateAtFinalize : Obligations.NoLostUpdateAtFinalize := by
  intro s now t bit hl hv hacc edge joined
  have edgeFirst := runEvents_edge_tick hl now t bit
  rw [shiftIn_eq] at edgeFirst
  refine ⟨fun hover => ?_, fun hwait => ?_, fun hover hjoined => ?_, fun _ hjoined => ?_⟩
  · rw [runEvents_tick_edge hl, pollTick_of_expired hacc hover, shiftIn_finalize hv]
  · rw [edgeFirst, pollTick_of_waiting hwait]
  · rw [edgeFirst, pollTick_of_expired hjoined hover]
    rfl
  · rw [edgeFirst, pollTick_of_idle hjoined, show trunc s.par (2 * s.acc + bit.toNat) = 0 from hjoined]

end Sys2Proof.Machine
end

section
/-! The statements of spec/30_encoding.md: which words are operations (R83 to R89), decoding and encoding as inverses
(R81, R94, R95), and the edges of a list of pulses and of CARD (R71, R93). -/

namespace Sys2Proof

open Sys2Proof.Safety

/-! ### The words that are operations (R83 to R88) -/

/-- R83 to R88: the words that are operations, written by their fields, with the operation each stands for. -/
inductive Carries : EventWord → Instr → Prop
  | nop : Carries 0 .nop
  | edge (pa : BitVec 8) (v : BitVec 40) : Carries (packWord 0x1 0 0 pa v) (.edge pa.toNat (timeOf v))
  | tick (v : BitVec 40) : Carries (packWord 0x2 0 0 0 v) (.tick (timeOf v))
  | query (fn : BitVec 4) (v : BitVec 40) (i : Instr) (hquery : decodeQueryFn fn v.toNat = .ok i) :
    Carries (packWord 0x4 fn 0 0 v) i
  /-- R86: `fn[3]` is zero, and a field whose presence bit is not set is zero. -/
  | create (fn : BitVec 4) (pb pa : BitVec 8) (v : BitVec 40) (h3 : fn.getLsbD 3 = false)
    (h0 : fn.getLsbD 0 = false → pa = 0) (h1 : fn.getLsbD 1 = false → pb = 0) (h2 : fn.getLsbD 2 = false → v = 0) :
    Carries (packWord 0x8 fn pb pa v)
      (.create (sourceOf (fn.getLsbD 0) pa) (sourceOf (fn.getLsbD 1) pb)
        (if fn.getLsbD 2 then some (timeoutOf v) else none))
  | subscribe (v : BitVec 40) (hv : v.toNat < 2 ^ 16) : Carries (packWord 0x9 0 0 0 v) (.subscribe v.toNat)

/-- R81: every word is packed from some fields. -/
theorem exists_packWord (w : EventWord) : ∃ op fn pb pa v, w = packWord op fn pb pa v :=
  ⟨_, _, _, _, _, (packWord_fields w).symm⟩

/-! #### The decoder on a packed word, class by class (R82, R95) -/

section
variable (op fn : BitVec 4) (pb pa : BitVec 8) (v : BitVec 40)

theorem decodeWord_packWord_edge :
    decodeWord (packWord 0x1 fn pb pa v) =
      if fn = 0 ∧ pb = 0 then .ok (.edge pa.toNat (timeOf v)) else .error .edgeField := by
  rw [decodeWord, if_neg (packWord_ne_zero _ _ _ _ _ (by decide))]
  simp [decodeEdge]

theorem decodeWord_packWord_tick :
    decodeWord (packWord 0x2 fn pb pa v) =
      if fn = 0 ∧ pb = 0 ∧ pa = 0 then .ok (.tick (timeOf v)) else .error .tickField := by
  rw [decodeWord, if_neg (packWord_ne_zero _ _ _ _ _ (by decide))]
  simp [decodeTick]

theorem decodeWord_packWord_query :
    decodeWord (packWord 0x4 fn pb pa v) =
      if pb = 0 ∧ pa = 0 then decodeQueryFn fn v.toNat else .error .queryField := by
  rw [decodeWord, if_neg (packWord_ne_zero _ _ _ _ _ (by decide))]
  simp [decodeQuery]

theorem decodeWord_packWord_create : decodeWord (packWord 0x8 fn pb pa v) = decodeCreate (packWord 0x8 fn pb pa v) := by
  rw [decodeWord, if_neg (packWord_ne_zero _ _ _ _ _ (by decide))]
  simp

theorem decodeWord_packWord_subscribe :
    decodeWord (packWord 0x9 fn pb pa v) =
      if fn = 0 ∧ pb = 0 ∧ pa = 0 ∧ v.toNat < 2 ^ 16 then .ok (.subscribe v.toNat) else .error .subscribeField := by
  rw [decodeWord, if_neg (packWord_ne_zero _ _ _ _ _ (by decide))]
  simp [decodeSubscribe]

/-- R86: CREATE decodes exactly when `fn[3]` is zero and what is absent has a zero field. -/
theorem decodeCreate_packWord_eq_ok_iff (i : Instr) :
    decodeCreate (packWord op fn pb pa v) = .ok i ↔
      fn.getLsbD 3 = false ∧ (fn.getLsbD 0 = false → pa = 0) ∧ (fn.getLsbD 1 = false → pb = 0) ∧
        (fn.getLsbD 2 = false → v = 0) ∧
        .create (sourceOf (fn.getLsbD 0) pa) (sourceOf (fn.getLsbD 1) pb)
          (if fn.getLsbD 2 then some (timeoutOf v) else none) = i := by
  simp only [decodeCreate, fnField_packWord, paField_packWord, pbField_packWord, vField_packWord, Bool.and_eq_true,
    Bool.not_eq_true', bne_iff_ne, ne_eq]
  generalize Instr.create _ _ _ = decoded
  -- each error branch contradicts the condition it stands for
  split_ifs <;> simp_all

end

/-- R95: the operation classes of the decoder. -/
theorem decodeWord_class {w : EventWord} {i : Instr} (h : decodeWord w = .ok i) (hw : w ≠ 0) :
    opField w = 0x1 ∨ opField w = 0x2 ∨ opField w = 0x4 ∨ opField w = 0x8 ∨ opField w = 0x9 := by
  unfold decodeWord at h
  split_ifs at h <;> simp_all

theorem decodeWord_of_carries {w : EventWord} {i : Instr} (h : Carries w i) : decodeWord w = .ok i := by
  cases h with
  | nop => rfl
  | edge pa v => rw [decodeWord_packWord_edge, if_pos ⟨rfl, rfl⟩]
  | tick v => rw [decodeWord_packWord_tick, if_pos ⟨rfl, rfl, rfl⟩]
  | query fn v i hquery => rw [decodeWord_packWord_query, if_pos ⟨rfl, rfl⟩, hquery]
  | create fn pb pa v h3 h0 h1 h2 =>
    rw [decodeWord_packWord_create, decodeCreate_packWord_eq_ok_iff]
    exact ⟨h3, h0, h1, h2, rfl⟩
  | subscribe v hv => rw [decodeWord_packWord_subscribe, if_pos ⟨rfl, rfl, rfl, hv⟩]

theorem carries_of_decodeWord {w : EventWord} {i : Instr} (h : decodeWord w = .ok i) : Carries w i := by
  by_cases hw : w = 0
  · subst hw; cases h; exact .nop
  have hclass := decodeWord_class h hw
  obtain ⟨op, fn, pb, pa, v, rfl⟩ := exists_packWord w
  rw [opField_packWord] at hclass
  rcases hclass with rfl | rfl | rfl | rfl | rfl
  · rw [decodeWord_packWord_edge] at h
    split_ifs at h with hz
    obtain ⟨rfl, rfl⟩ := hz
    cases h; exact .edge pa v
  · rw [decodeWord_packWord_tick] at h
    split_ifs at h with hz
    obtain ⟨rfl, rfl, rfl⟩ := hz
    cases h; exact .tick v
  · rw [decodeWord_packWord_query] at h
    split_ifs at h with hz
    obtain ⟨rfl, rfl⟩ := hz
    exact .query fn v i h
  · rw [decodeWord_packWord_create, decodeCreate_packWord_eq_ok_iff] at h
    obtain ⟨h3, h0, h1, h2, rfl⟩ := h
    exact .create fn pb pa v h3 h0 h1 h2
  · rw [decodeWord_packWord_subscribe] at h
    split_ifs at h with hz
    obtain ⟨rfl, rfl, rfl, hv⟩ := hz
    cases h; exact .subscribe v hv

/-- R83 to R88, R95: the decoder reads the words of those rules and no others. -/
theorem decodeWord_eq_ok_iff (w : EventWord) (i : Instr) : decodeWord w = .ok i ↔ Carries w i :=
  ⟨carries_of_decodeWord, decodeWord_of_carries⟩

/-- R89. -/
theorem decodeWord_eq_error_iff (w : EventWord) : (∃ why, decodeWord w = .error why) ↔ ¬ ∃ i, Carries w i := by
  simp only [← decodeWord_eq_ok_iff]
  cases decodeWord w <;> simp

/-! ### Encoding -/

/-- R88: a codec operation is selected by a value of `fn` up to 6. -/
theorem decodeQueryFn_ok {fn : BitVec 4} {raw : Nat} {i : Instr} (h : decodeQueryFn fn raw = .ok i) :
    (fn = 0 ∧ i = .fromraw raw) ∨ (fn = 1 ∧ i = .lpb raw) ∨ (fn = 2 ∧ i = .fc raw) ∨ (fn = 3 ∧ i = .cn raw) ∨
      (fn = 4 ∧ i = .tpb raw) ∨ (fn = 5 ∧ i = .isvalid raw) ∨ (fn = 6 ∧ i = .tostring raw) := by
  unfold decodeQueryFn at h
  split_ifs at h <;> cases h <;> simp_all

/-- R86: the presence flags. -/
theorem createFn_getLsbD (src0 src1 : Option Nat) (timeout : Option Int) :
    (createFn src0 src1 timeout).getLsbD 0 = src0.isSome ∧ (createFn src0 src1 timeout).getLsbD 1 = src1.isSome ∧
      (createFn src0 src1 timeout).getLsbD 2 = timeout.isSome ∧ (createFn src0 src1 timeout).getLsbD 3 = false := by
  rw [createFn]
  generalize src0.isSome = x, src1.isSome = y, timeout.isSome = z
  revert x y z; decide

/-- R86: with `fn[3]` zero the flags are those of what they say is present. -/
theorem createFn_eq {fn : BitVec 4} {src0 src1 : Option Nat} {timeout : Option Int} (h3 : fn.getLsbD 3 = false)
    (h0 : src0.isSome = fn.getLsbD 0) (h1 : src1.isSome = fn.getLsbD 1) (h2 : timeout.isSome = fn.getLsbD 2) :
    createFn src0 src1 timeout = fn := by
  rw [createFn, h0, h1, h2]
  clear h0 h1 h2
  revert fn; decide

/-! #### An operand and the field it is read from (R81) -/

theorem portFits_toNat (p : BitVec 8) : portFits p.toNat = true := decide_eq_true p.isLt

theorem timeFits_timeOf (v : BitVec 40) : timeFits (timeOf v) = true := by
  have := v.isLt
  rw [timeFits, timeOf, decide_eq_true_eq]; omega

theorem timeoutFits_timeoutOf (v : BitVec 40) : timeoutFits (timeoutOf v) = true :=
  decide_eq_true ⟨v.le_toInt, v.toInt_lt⟩

theorem rawFits_toNat (v : BitVec 40) : rawFits v.toNat = true := decide_eq_true v.isLt

theorem ofInt_timeOf (v : BitVec 40) : BitVec.ofInt 40 (timeOf v) = v := by simp [timeOf]

theorem ofInt_timeoutOf (v : BitVec 40) : BitVec.ofInt 40 (timeoutOf v) = v := BitVec.ofInt_toInt

theorem toNat_ofNat_of_portFits {p : Nat} (h : portFits p = true) : (BitVec.ofNat 8 p).toNat = p :=
  BitVec.toNat_ofNat _ _ ▸ Nat.mod_eq_of_lt (of_decide_eq_true h)

/-- R86: a source that is absent has a zero field, and one that is present is read back. -/
theorem ofNat_sourceOf {present : Bool} {field : BitVec 8} (h : present = false → field = 0) :
    BitVec.ofNat 8 ((sourceOf present field).getD 0) = field := by
  cases present with
  | false => rw [h rfl]; rfl
  | true => simp [sourceOf]

theorem sourceOf_ofNat {src : Option Nat} (h : src.all portFits = true) :
    sourceOf src.isSome (BitVec.ofNat 8 (src.getD 0)) = src := by
  cases src with
  | none => rfl
  | some p => exact congrArg some (toNat_ofNat_of_portFits h)

theorem isSome_sourceOf (present : Bool) (field : BitVec 8) : (sourceOf present field).isSome = present := by
  cases present <;> rfl

theorem all_portFits_sourceOf (present : Bool) (field : BitVec 8) : (sourceOf present field).all portFits = true := by
  cases present with
  | false => rfl
  | true => exact portFits_toNat field

theorem ofInt_timeout {given : Bool} {v : BitVec 40} (h : given = false → v = 0) :
    BitVec.ofInt 40 ((if given then some (timeoutOf v) else none : Option Int).getD 0) = v := by
  cases given with
  | false => rw [h rfl]; rfl
  | true => exact ofInt_timeoutOf v

theorem timeout_ofInt {timeout : Option Int} (h : timeout.all timeoutFits = true) :
    (if timeout.isSome then some (timeoutOf (BitVec.ofInt 40 (timeout.getD 0))) else none) = timeout := by
  cases timeout with
  | none => rfl
  | some t => exact congrArg some (timeoutOf_ofInt h)

/-! #### The words of the operations -/

theorem decodeWord_tickWord {now : Int} (h : timeFits now = true) :
    decodeWord (packWord 0x2 0 0 0 (BitVec.ofInt 40 now)) = .ok (.tick now) := by
  rw [decodeWord_packWord_tick, if_pos ⟨rfl, rfl, rfl⟩, timeOf_ofInt h]

theorem decodeWord_subscribeWord {h : Nat} (hfits : handlerFits h = true) :
    decodeWord (packWord 0x9 0 0 0 (BitVec.ofNat 40 h)) = .ok (.subscribe h) := by
  have hlt : h < 2 ^ 16 := of_decide_eq_true hfits
  have hv : (BitVec.ofNat 40 h).toNat = h := by rw [BitVec.toNat_ofNat]; omega
  rw [decodeWord_packWord_subscribe, hv, if_pos ⟨rfl, rfl, rfl, hlt⟩]

theorem decodeWord_createWord {src0 src1 : Option Nat} {timeout : Option Int} (h0 : src0.all portFits = true)
    (h1 : src1.all portFits = true) (ht : timeout.all timeoutFits = true) :
    decodeWord (createWord src0 src1 timeout) = .ok (.create src0 src1 timeout) := by
  have absent {α : Type} {o : Option α} (d : α) (h : o.isSome = false) : o.getD d = d := by
    cases o with
    | none => rfl
    | some _ => cases h
  obtain ⟨flag0, flag1, flag2, flag3⟩ := createFn_getLsbD src0 src1 timeout
  rw [createWord, decodeWord_packWord_create, decodeCreate_packWord_eq_ok_iff, flag0, flag1, flag2, sourceOf_ofNat h0,
    sourceOf_ofNat h1, timeout_ofInt ht]
  exact ⟨flag3, fun h => congrArg (BitVec.ofNat 8) (absent 0 h), fun h => congrArg (BitVec.ofNat 8) (absent 0 h),
    fun h => congrArg (BitVec.ofInt 40) (absent 0 h), rfl⟩

/-- R94: the pins of a CYCLE come back from its vector. -/
theorem decodePins_append (rst d1n d0n : Bool) :
    decodePins (BitVec.ofBool rst ++ BitVec.ofBool d1n ++ BitVec.ofBool d0n) = .cycle rst d1n d0n := by
  revert rst d1n d0n; decide

theorem append_pins (v : PinVector) :
    BitVec.ofBool (v.getLsbD 2) ++ BitVec.ofBool (v.getLsbD 1) ++ BitVec.ofBool (v.getLsbD 0) = v := by
  revert v; decide

/-! #### Encoding and decoding (R81, R94, R95) -/

/-- R81, R94: all but the resolved edges come back from their code. -/
theorem decodeCode_encode {a b : Nat} {i : Instr} (h : wellFormed a b i = true) (hr : resolvedEdge i = false) :
    decodeCode (encode a b i) = .ok i := by
  cases i with
  | create src0 src1 timeout =>
    simp only [wellFormed, Bool.and_eq_true] at h
    obtain ⟨⟨h0, h1⟩, ht⟩ := h
    exact decodeWord_createWord h0 h1 ht
  | subscribe handler => exact decodeWord_subscribeWord h
  | nop => rfl
  | edge p t =>
    simp only [wellFormed, Bool.and_eq_true] at h
    exact decodeWord_edgeWord h.1 h.2
  | edge0 | edge1 | edgex => cases hr
  | tick now => exact decodeWord_tickWord h
  | fromraw raw | lpb raw | fc raw | cn raw | tpb raw | isvalid raw | tostring raw => exact decodeWord_queryWord _ h
  | cycle rst d1n d0n => exact congrArg _ (decodePins_append rst d1n d0n)

/-- Every operation that a word carries is encoded as that word. -/
theorem encode_of_carries {w : EventWord} {i : Instr} (h : Carries w i) (a b : Nat) : encode a b i = .word w := by
  cases h with
  | nop => rfl
  | edge pa v => rw [encode, edgeWord, BitVec.ofNat_toNat, BitVec.setWidth_eq, ofInt_timeOf]
  | tick v => rw [encode, ofInt_timeOf]
  | query fn v i hquery =>
    have hv : queryWord fn v.toNat = packWord 0x4 fn 0 0 v := by rw [queryWord, BitVec.ofNat_toNat, BitVec.setWidth_eq]
    rcases decodeQueryFn_ok hquery with ⟨rfl, rfl⟩ | ⟨rfl, rfl⟩ | ⟨rfl, rfl⟩ | ⟨rfl, rfl⟩ | ⟨rfl, rfl⟩ | ⟨rfl, rfl⟩ |
      ⟨rfl, rfl⟩ <;> rw [encode, hv]
  | create fn pb pa v h3 h0 h1 h2 =>
    rw [encode, createWord, ofNat_sourceOf h0, ofNat_sourceOf h1, ofInt_timeout h2,
      createFn_eq h3 (isSome_sourceOf _ _) (isSome_sourceOf _ _) (by cases fn.getLsbD 2 <;> rfl)]
  | subscribe v hv => rw [encode, BitVec.ofNat_toNat, BitVec.setWidth_eq]

/-- Every operation that a word carries fits the fields, and is no resolved edge. -/
theorem wellFormed_of_carries {w : EventWord} {i : Instr} (h : Carries w i) (a b : Nat) :
    wellFormed a b i = true ∧ resolvedEdge i = false := by
  cases h with
  | nop => exact ⟨rfl, rfl⟩
  | edge pa v => exact ⟨by rw [wellFormed, portFits_toNat, timeFits_timeOf]; rfl, rfl⟩
  | tick v => exact ⟨timeFits_timeOf v, rfl⟩
  | query fn v i hquery =>
    rcases decodeQueryFn_ok hquery with ⟨-, rfl⟩ | ⟨-, rfl⟩ | ⟨-, rfl⟩ | ⟨-, rfl⟩ | ⟨-, rfl⟩ | ⟨-, rfl⟩ | ⟨-, rfl⟩ <;>
      exact ⟨rawFits_toNat v, rfl⟩
  | create fn pb pa v h3 h0 h1 h2 =>
    refine ⟨?_, rfl⟩
    rw [wellFormed, all_portFits_sourceOf, all_portFits_sourceOf]
    cases fn.getLsbD 2 with
    | false => rfl
    | true => exact timeoutFits_timeoutOf v
  | subscribe v hv => exact ⟨decide_eq_true hv, rfl⟩

/-! ### The statements on decoding and encoding -/

/-- Settles O1, by running the decoder on each code. -/
theorem specWordsDecode : Obligations.SpecWordsDecode := by
  unfold Obligations.SpecWordsDecode
  and_intros <;> decide

/-- Settles O3: the code of a resolved edge is that of the EDGE that resolves to it. -/
theorem decodeEncode : Obligations.DecodeEncode := by
  intro a b i hab h
  cases i with
  | edge0 t =>
    simp only [wellFormed, Bool.and_eq_true] at h
    exact ⟨.edge a t, decodeWord_edgeWord h.1 h.2, by simp [resolve], nofun⟩
  | edge1 t =>
    simp only [wellFormed, Bool.and_eq_true] at h
    exact ⟨.edge b t, decodeWord_edgeWord h.1 h.2, by simp [resolve, hab.symm], nofun⟩
  | edgex p t =>
    simp only [wellFormed, Bool.and_eq_true, decide_eq_true_eq] at h
    obtain ⟨⟨⟨hp, ht⟩, hpa⟩, hpb⟩ := h
    exact ⟨.edge p t, decodeWord_edgeWord hp ht, by simp [resolve, hpa, hpb], nofun⟩
  | _ => exact ⟨_, decodeCode_encode h rfl, rfl, fun _ => rfl⟩

/-- Settles O4, by the word or the vector that the operation was decoded from. -/
theorem encodeDecode : Obligations.EncodeDecode := by
  intro a b c i h
  cases c with
  | word w =>
    have hw := carries_of_decodeWord h
    exact ⟨encode_of_carries hw a b, wellFormed_of_carries hw a b⟩
  | pins v =>
    cases h
    exact ⟨congrArg Code.pins (append_pins v), rfl, rfl⟩

/-! ### Masks and matches (R83 to R89) -/

section
variable (op fn op' fn' : BitVec 4) (pb pa pb' pa' : BitVec 8) (v v' : BitVec 40)

theorem packWord_and :
    packWord op fn pb pa v &&& packWord op' fn' pb' pa' v' =
      packWord (op &&& op') (fn &&& fn') (pb &&& pb') (pa &&& pa') (v &&& v') := by
  show (op ++ fn ++ pb ++ pa ++ v : BitVec (4 + 4 + 8 + 8 + 40)) &&& (op' ++ fn' ++ pb' ++ pa' ++ v') = _
  rw [BitVec.and_append, BitVec.and_append, BitVec.and_append, BitVec.and_append]
  rfl

theorem packWord_inj :
    packWord op fn pb pa v = packWord op' fn' pb' pa' v' ↔ op = op' ∧ fn = fn' ∧ pb = pb' ∧ pa = pa' ∧ v = v' := by
  refine ⟨fun h => ⟨?_, ?_, ?_, ?_, ?_⟩, ?_⟩
  · simpa using congrArg opField h
  · simpa using congrArg fnField h
  · simpa using congrArg pbField h
  · simpa using congrArg paField h
  · simpa using congrArg vField h
  · rintro ⟨rfl, rfl, rfl, rfl, rfl⟩; rfl

end

section
variable (op fn : BitVec 4) (pb pa : BitVec 8) (v : BitVec 40)

/-- R84. -/
theorem edgeMask_iff :
    packWord op fn pb pa v &&& 0xFFFF000000000000 = 0x1000000000000000 ↔ op = 0x1 ∧ fn = 0 ∧ pb = 0 := by
  rw [show (0xFFFF000000000000 : EventWord) = packWord (.allOnes 4) (.allOnes 4) (.allOnes 8) 0 0 from rfl,
    show (0x1000000000000000 : EventWord) = packWord 0x1 0 0 0 0 from rfl, packWord_and, packWord_inj]
  simp [-BitVec.reduceAllOnes]

/-- R85. -/
theorem tickMask_iff :
    packWord op fn pb pa v &&& 0xFFFFFF0000000000 = 0x2000000000000000 ↔ op = 0x2 ∧ fn = 0 ∧ pb = 0 ∧ pa = 0 := by
  rw [show (0xFFFFFF0000000000 : EventWord) = packWord (.allOnes 4) (.allOnes 4) (.allOnes 8) (.allOnes 8) 0 from rfl,
    show (0x2000000000000000 : EventWord) = packWord 0x2 0 0 0 0 from rfl, packWord_and, packWord_inj]
  simp [-BitVec.reduceAllOnes]

/-- R88: the match of a codec query holds its `fn`. -/
theorem queryMatch_eq {k : Nat} (hk : k ≤ 6) :
    (0x4000000000000000 + BitVec.ofNat 64 (k * 2 ^ 56) : EventWord) = packWord 0x4 (BitVec.ofNat 4 k) 0 0 0 := by
  revert k; decide

/-- R88. -/
theorem queryMask_iff {k : Nat} (hk : k ≤ 6) :
    packWord op fn pb pa v &&& 0xFFFFFF0000000000 = 0x4000000000000000 + BitVec.ofNat 64 (k * 2 ^ 56) ↔
      op = 0x4 ∧ fn = BitVec.ofNat 4 k ∧ pb = 0 ∧ pa = 0 := by
  rw [show (0xFFFFFF0000000000 : EventWord) = packWord (.allOnes 4) (.allOnes 4) (.allOnes 8) (.allOnes 8) 0 from rfl,
    queryMatch_eq hk, packWord_and, packWord_inj]
  simp [-BitVec.reduceAllOnes]

/-- R87: above bit 15 of `v` nothing is set. -/
theorem and_handlerMask_iff : v &&& (BitVec.allOnes 40 <<< 16) = 0 ↔ v.toNat < 2 ^ 16 := by
  have := v.isLt
  rw [← BitVec.shiftLeft_ushiftRight, ← BitVec.toNat_inj, BitVec.toNat_shiftLeft, BitVec.toNat_ushiftRight,
    Nat.shiftRight_eq_div_pow, Nat.shiftLeft_eq]
  show _ = 0 ↔ _
  omega

/-- R87. -/
theorem subscribeMask_iff :
    packWord op fn pb pa v &&& 0xFFFFFFFFFFFF0000 = 0x9000000000000000 ↔
      op = 0x9 ∧ fn = 0 ∧ pb = 0 ∧ pa = 0 ∧ v.toNat < 2 ^ 16 := by
  rw [show (0xFFFFFFFFFFFF0000 : EventWord) = packWord (.allOnes 4) (.allOnes 4) (.allOnes 8) (.allOnes 8)
      (BitVec.allOnes 40 <<< 16) from rfl,
    show (0x9000000000000000 : EventWord) = packWord 0x9 0 0 0 0 from rfl, packWord_and, packWord_inj,
    and_handlerMask_iff]
  simp [-BitVec.reduceAllOnes]

/-- R86. -/
theorem createMask_iff :
    packWord op fn pb pa v &&& 0xF800000000000000 = 0x8000000000000000 ↔ op = 0x8 ∧ fn.getLsbD 3 = false := by
  have bit3 : fn &&& 0x8 = 0 ↔ fn.getLsbD 3 = false := by revert fn; decide
  rw [show (0xF800000000000000 : EventWord) = packWord (.allOnes 4) 0x8 0 0 0 from rfl,
    show (0x8000000000000000 : EventWord) = packWord 0x8 0 0 0 0 from rfl, packWord_and, packWord_inj, bit3]
  simp [-BitVec.reduceAllOnes]

/-- R86. -/
theorem source0Mask_iff : packWord op fn pb pa v &&& 0x0000FF0000000000 = 0 ↔ pa = 0 := by
  rw [show (0x0000FF0000000000 : EventWord) = packWord 0 0 0 (.allOnes 8) 0 from rfl,
    show (0 : EventWord) = packWord 0 0 0 0 0 from rfl, packWord_and, packWord_inj]
  simp [-BitVec.reduceAllOnes]

/-- R86. -/
theorem source1Mask_iff : packWord op fn pb pa v &&& 0x00FF000000000000 = 0 ↔ pb = 0 := by
  rw [show (0x00FF000000000000 : EventWord) = packWord 0 0 (.allOnes 8) 0 0 from rfl,
    show (0 : EventWord) = packWord 0 0 0 0 0 from rfl, packWord_and, packWord_inj]
  simp [-BitVec.reduceAllOnes]

/-- R86. -/
theorem timeoutMask_iff : packWord op fn pb pa v &&& 0x000000FFFFFFFFFF = 0 ↔ v = 0 := by
  rw [show (0x000000FFFFFFFFFF : EventWord) = packWord 0 0 0 0 (.allOnes 40) from rfl,
    show (0 : EventWord) = packWord 0 0 0 0 0 from rfl, packWord_and, packWord_inj]
  simp [-BitVec.reduceAllOnes]

end

/-- R86: the presence flags in the word. -/
theorem packWord_getLsbD (op fn : BitVec 4) (pb pa : BitVec 8) (v : BitVec 40) {k : Nat} (h : k < 4) :
    (packWord op fn pb pa v).getLsbD (56 + k) = fn.getLsbD k := by
  rw [← fnField_getLsbD _ _ h, fnField_packWord]

/-- R88: the selected values of `fn` are those up to 6. -/
theorem toNat_le_of_decodeQueryFn {fn : BitVec 4} {raw : Nat} {i : Instr} (h : decodeQueryFn fn raw = .ok i) :
    fn.toNat ≤ 6 := by
  rcases decodeQueryFn_ok h with ⟨rfl, -⟩ | ⟨rfl, -⟩ | ⟨rfl, -⟩ | ⟨rfl, -⟩ | ⟨rfl, -⟩ | ⟨rfl, -⟩ | ⟨rfl, -⟩ <;> decide

theorem exists_decodeQueryFn {k : Nat} (hk : k ≤ 6) (raw : Nat) :
    ∃ i, decodeQueryFn (BitVec.ofNat 4 k) raw = .ok i := by
  interval_cases k <;> exact ⟨_, rfl⟩

end Sys2Proof

namespace Sys2Proof.Machine

open Sys2Proof.Safety

/-! ### Reserved words (R89) -/

theorem whenLive_ne_reservedWord (s : State) (w : State → State) (why : Reserved) :
    whenLive s w ≠ .refused (.reservedWord why) := by
  unfold whenLive; split_ifs <;> nofun

/-- R89: only a word that is no operation is refused as reserved. -/
theorem exec_ne_reservedWord (i : Instr) (s : State) (why : Reserved) : exec i s ≠ .refused (.reservedWord why) := by
  cases i with
  | create src0 src1 timeout =>
    show execCreate src0 src1 timeout s ≠ _
    unfold execCreate
    split_ifs
    · nofun
    · split <;> nofun
  | cycle rst d1n d0n =>
    show execCycle rst d1n d0n s ≠ _
    unfold execCycle
    split_ifs <;> nofun
  | nop | fromraw | lpb | fc | cn | tpb | isvalid | tostring => nofun
  | subscribe | edge | edge0 | edge1 | edgex | tick => exact whenLive_ne_reservedWord s _ why

theorem step_reservedWord_iff {s : State} {w : EventWord} {rest : List Input} (h : s.trace = .code (.word w) :: rest) :
    (∃ why, decodeWord w = .error why) ↔ ∃ why, step s = .refused (.reservedWord why) := by
  have hfetch : fetch s = some (decodeWord w, { s with trace := rest }) := fetch_of_trace_cons h
  cases hw : decodeWord w with
  | ok i =>
    rw [hw] at hfetch
    rw [step_of_fetch_ok hfetch]
    exact ⟨nofun, fun ⟨why, hwhy⟩ => absurd hwhy (exec_ne_reservedWord i _ why)⟩
  | error why =>
    rw [hw] at hfetch
    rw [step_of_fetch_error hfetch]
    exact ⟨fun _ => ⟨why, rfl⟩, fun _ => ⟨why, rfl⟩⟩

/-- Settles O2: the words of the masks and matches are those that carry an operation. -/
theorem reservedWordsAreTheUnmatched : Obligations.ReservedWordsAreTheUnmatched := by
  refine ⟨fun s w rest h => step_reservedWord_iff h, fun w => ?_⟩
  rw [decodeWord_eq_error_iff, not_iff_not]
  constructor
  · rintro ⟨i, h⟩
    cases h with
    | nop => exact .inl rfl
    | edge pa v => exact .inr (.inl ((edgeMask_iff ..).2 ⟨rfl, rfl, rfl⟩))
    | tick v => exact .inr (.inr (.inl ((tickMask_iff ..).2 ⟨rfl, rfl, rfl, rfl⟩)))
    | query fn v i h =>
      have hk := toNat_le_of_decodeQueryFn h
      exact .inr (.inr (.inr (.inl ⟨fn.toNat, hk, (queryMask_iff _ _ _ _ _ hk).2 ⟨rfl, by simp, rfl, rfl⟩⟩)))
    | create fn pb pa v h3 h0 h1 h2 =>
      refine .inr (.inr (.inr (.inr (.inr ⟨(createMask_iff ..).2 ⟨rfl, h3⟩, ?_, ?_, ?_⟩))))
      · rwa [packWord_getLsbD (k := 0) (h := by decide), source0Mask_iff]
      · rwa [packWord_getLsbD (k := 1) (h := by decide), source1Mask_iff]
      · rwa [packWord_getLsbD (k := 2) (h := by decide), timeoutMask_iff]
    | subscribe v hv => exact .inr (.inr (.inr (.inr (.inl ((subscribeMask_iff ..).2 ⟨rfl, rfl, rfl, rfl, hv⟩)))))
  · obtain ⟨op, fn, pb, pa, v, rfl⟩ := exists_packWord w
    rw [edgeMask_iff, tickMask_iff, subscribeMask_iff, createMask_iff, packWord_getLsbD (k := 0) (h := by decide),
      packWord_getLsbD (k := 1) (h := by decide), packWord_getLsbD (k := 2) (h := by decide), source0Mask_iff,
      source1Mask_iff, timeoutMask_iff]
    rintro (h | ⟨rfl, rfl, rfl⟩ | ⟨rfl, rfl, rfl, rfl⟩ | ⟨k, hk, h⟩ | ⟨rfl, rfl, rfl, rfl, hv⟩ | ⟨⟨rfl, h3⟩, h0, h1, h2⟩)
    · exact ⟨.nop, h ▸ Carries.nop⟩
    · exact ⟨_, .edge pa v⟩
    · exact ⟨_, .tick v⟩
    · obtain ⟨rfl, rfl, rfl, rfl⟩ := (queryMask_iff _ _ _ _ _ hk).1 h
      obtain ⟨i, hi⟩ := exists_decodeQueryFn hk v.toNat
      exact ⟨i, .query _ v i hi⟩
    · exact ⟨_, .subscribe v hv⟩
    · exact ⟨_, .create fn pb pa v h3 h0 h1 h2⟩

/-! ### Pulses (R71) -/

/-- R104: in a running block with distinct ports the edge of a pulse shifts its bit in. -/
theorem exec_pulseEdge {s : State} (hl : live s = true) (hp : s.portA ≠ s.portB) (p : Pulse) :
    exec (pulseEdge s.portA s.portB p) s = .next (shiftIn p.1 p.2 s) := by
  obtain ⟨bit, t⟩ := p
  rw [pulseEdge, exec_of_live hl rfl]
  cases bit with
  | false => simp [edgeOn]
  | true => simp [edgeOn, hp.symm]

/-- LAT after a list of pulses that starts with LAT at `lat`. -/
def latAfter (lat : Int) (pulses : List Pulse) : Int := (pulses.getLast?.map (·.2)).getD lat

@[simp] theorem latAfter_cons (lat : Int) (p : Pulse) (pulses : List Pulse) :
    latAfter lat (p :: pulses) = latAfter p.2 pulses := by
  rw [latAfter, latAfter, List.getLast?_cons, Option.map_some, Option.getD_some, Option.getD_map]

theorem runEvents_pulses {s : State} (hl : live s = true) (hp : s.portA ≠ s.portB) (pulses : List Pulse) :
    runEvents (pulses.map (pulseEdge s.portA s.portB)) s =
      .next { s with acc := shiftBits s.par s.acc (pulses.map (·.1)), lat := latAfter s.lat pulses } := by
  induction pulses generalizing s with
  | nil => rfl
  | cons p pulses ih =>
    have hrest := ih (s := shiftIn p.1 p.2 s) (by simpa using hl) hp
    rw [List.map_cons, runEvents_cons (exec_pulseEdge hl hp p)]
    simpa [shiftIn] using hrest

/-- R12, R114: reducing at every shift is reducing once at the end. -/
theorem shiftBits_trunc (par : Config) (v : Nat) (bits : List Bool) :
    shiftBits par (trunc par v) bits = trunc par (appendBits v bits) := by
  induction bits generalizing v with
  | nil => rfl
  | cons bit bits ih => rw [shiftBits_cons, trunc_shift_trunc, ih]; rfl

/-- R71: the pulses of an idle block. -/
theorem runEvents_pulses_of_idle {s : State} (hl : live s = true) (hp : s.portA ≠ s.portB) (hacc : s.acc = 0)
    (pulses : List Pulse) :
    runEvents (pulses.map (pulseEdge s.portA s.portB)) s =
      .next { s with acc := trunc s.par (appendBits 0 (pulses.map (·.1))), lat := latAfter s.lat pulses } := by
  rw [runEvents_pulses hl hp, hacc, ← shiftBits_trunc, trunc_zero]

/-- Settles O32, by the run of a list of pulses. -/
theorem pulsesAccumulateMostSignificantFirst : Obligations.PulsesAccumulateMostSignificantFirst := by
  intro s pulses hl hp hacc
  refine ⟨_, runEvents_pulses_of_idle hl hp hacc pulses, fun p hlast => ?_⟩
  rw [latAfter, Option.mem_def.1 hlast]
  rfl

/-! ### CARD (R93, R76) -/

/-- R93: the pulses of a FRAME. -/
def framePulses (dt : Int) : List Bool → Int → List Pulse
  | [], _ => []
  | bit :: bits, t => (bit, t) :: framePulses dt bits (t + dt)

theorem frameEdges_eq (a b : Nat) (dt : Int) (bits : List Bool) (t : Int) :
    frameEdges a b dt bits t = (framePulses dt bits t).map (pulseEdge a b) := by
  induction bits generalizing t with
  | nil => rfl
  | cons bit bits ih => rw [frameEdges, ih, framePulses, List.map_cons, pulseEdge]

theorem map_fst_framePulses (dt : Int) (bits : List Bool) (t : Int) : (framePulses dt bits t).map (·.1) = bits := by
  induction bits generalizing t with
  | nil => rfl
  | cons bit bits ih => rw [framePulses, List.map_cons, ih]

/-- R93: the last of `n + 1` pulses falls `n` spacings after the first. -/
theorem latAfter_framePulses {n : Nat} {bits : List Bool} (h : bits.length = n + 1) (lat dt t : Int) :
    latAfter lat (framePulses dt bits t) = t + n * dt := by
  induction n generalizing bits lat t with
  | zero =>
    obtain ⟨bit, rfl⟩ := List.length_eq_one_iff.1 h
    simp [framePulses, latAfter]
  | succ n ih =>
    obtain ⟨bit, bits, rfl⟩ := List.exists_cons_of_length_eq_add_one h
    rw [framePulses, latAfter_cons, ih (Nat.succ.inj h)]
    push_cast; ring

/-- A digit after the others is the new last digit. -/
theorem appendBits_concat (acc : Nat) (bits : List Bool) (bit : Bool) :
    appendBits acc (bits ++ [bit]) = 2 * appendBits acc bits + bit.toNat := by
  simp [appendBits]

/-- R93: the `n` digits of a value, most significant first, spell its remainder by `2 ^ n`. -/
theorem appendBits_testBit (n v : Nat) :
    appendBits 0 ((List.range n).map fun k => v.testBit (n - 1 - k)) = v % 2 ^ n := by
  induction n generalizing v with
  | zero => simp [appendBits, Nat.mod_one]
  | succ n ih =>
    have hhalf : (List.range n).map (fun k => v.testBit (n - k)) =
        (List.range n).map fun k => (v / 2).testBit (n - 1 - k) := by
      refine List.map_congr_left fun k hk => ?_
      have := List.mem_range.1 hk
      rw [← Nat.testBit_succ]; congr 1; omega
    have hlast : (v.testBit 0).toNat = v % 2 := by rw [Nat.toNat_testBit, Nat.pow_zero, Nat.div_one]
    rw [Nat.add_sub_cancel, List.range_succ, List.map_append, hhalf, List.map_singleton, appendBits_concat, ih,
      Nat.sub_self, hlast, Nat.pow_succ', Nat.mod_mul, Nat.add_comm]

theorem appendBits_cardBits {raw : Nat} (h : raw < 2 ^ 26) : appendBits 0 (cardBits raw) = raw :=
  (appendBits_testBit 26 raw).trans (Nat.mod_eq_of_lt h)

section
variable (l : BitVec 1) (f : BitVec 8) (c : BitVec 16) (t : BitVec 1)

theorem fcOf_compose : fcOf (compose l f c t) = f := by
  have hl := l.isLt; have hf := f.isLt; have hc := c.isLt; have ht := t.isLt
  apply BitVec.eq_of_toNat_eq
  rw [fcOf, slice_toNat, compose_eq]; omega

theorem cnOf_compose : cnOf (compose l f c t) = c := by
  have hl := l.isLt; have hf := f.isLt; have hc := c.isLt; have ht := t.isLt
  apply BitVec.eq_of_toNat_eq
  rw [cnOf, slice_toNat, compose_eq]; omega

/-- R75: the even-parity group is the leading parity bit above the facility code and the four high digits of the card
number. -/
theorem compose_div : compose l f c t / 2 ^ 13 = l.toNat * 2 ^ 12 + (f.toNat * 2 ^ 4 + c.toNat / 2 ^ 12) := by
  have hl := l.isLt; have hf := f.isLt; have hc := c.isLt; have ht := t.isLt
  rw [compose_eq]; omega

/-- R75: the odd-parity group is the twelve low digits of the card number above the trailing parity bit. -/
theorem compose_mod : compose l f c t % 2 ^ 13 = c.toNat % 2 ^ 12 * 2 ^ 1 + t.toNat := by
  have hl := l.isLt; have hf := f.isLt; have hc := c.isLt; have ht := t.isLt
  rw [compose_eq]; omega

end

theorem popcount_bit (b : BitVec 1) : popcount b.toNat = b.toNat := by revert b; decide

/-- R76: the leading parity bit makes the weight of its group even. -/
theorem toNat_validLpb (fc : BitVec 8) (cn : BitVec 16) :
    (validLpb fc cn).toNat = popcount (fc.toNat * 2 ^ 4 + cn.toNat / 2 ^ 12) % 2 := by
  have hglue : fc.toNat <<< 4 ||| cn.toNat >>> 12 = fc.toNat * 2 ^ 4 + cn.toNat / 2 ^ 12 := by
    have := cn.isLt
    rw [Nat.shiftRight_eq_div_pow, Nat.shiftLeft_eq, Nat.mul_comm, Nat.two_pow_add_eq_or_of_lt (by omega)]
  rw [validLpb, hglue, BitVec.toNat_ofNat, Nat.pow_one, Nat.mod_mod]

/-- R76: the trailing parity bit makes the weight of its group odd. -/
theorem toNat_validTpb (cn : BitVec 16) : (validTpb cn).toNat = 1 - popcount (cn.toNat % 2 ^ 12) % 2 := by
  rw [validTpb, show (0xFFF : Nat) = 2 ^ 12 - 1 from rfl, Nat.and_two_pow_sub_one_eq_mod, BitVec.toNat_ofNat]
  omega

/-- R76, R136: the card with the parity bits of R76 is valid. -/
theorem isValidOf_validCard (wide : IsValidWide) (fc : BitVec 8) (cn : BitVec 16) :
    isValidOf wide (validCard fc cn) = true := by
  have hf := fc.isLt; have hc := cn.isLt; have ht := (validTpb cn).isLt
  rw [validCard, isValidOf_iff_of_lt wide (compose_lt ..), compose_div, compose_mod,
    popcount_add_shift 12 _ _ (by omega), popcount_add_shift 1 _ _ ht, popcount_bit, popcount_bit, toNat_validLpb,
    toNat_validTpb]
  omega

/-- Settles O5: CARD is the frame of the digits of the valid card. -/
theorem cardAccumulatesTheValidCard : Obligations.CardAccumulatesTheValidCard := by
  intro s fc cn t0 dt hl hacc hp hv
  have hlt : validCard fc cn < 2 ^ 26 := compose_lt ..
  have hlen : (cardBits (validCard fc cn)).length = 26 := by simp [cardBits]
  have hrun := runEvents_pulses_of_idle hl hp hacc (framePulses dt (cardBits (validCard fc cn)) t0)
  rw [map_fst_framePulses, appendBits_cardBits hlt, trunc_of_fitsAcc (fitsAcc_of_lt hv hlt), latAfter_framePulses hlen,
    ← frameEdges_eq] at hrun
  refine ⟨validCard fc cn, ?_, hrun, fcOf_compose .., cnOf_compose .., hlt, fun wide => isValidOf_validCard wide fc cn⟩
  rw [expandLine, frameEdges_eq, List.length_map, ← hlen, ← List.length_map (f := (·.1)), map_fst_framePulses]

end Sys2Proof.Machine
end

section
/-! The statements of spec/40_frame_decoder.md: CREATE (R101), SUBSCRIBE and NOP (R102, R103), edges (R104 to R107),
ticks (R109, R110), halted and missing blocks (R117), and runs of edges and ticks (R114 to R116). -/

namespace Sys2Proof.Machine

open Sys2Proof.Safety

/-! ### CREATE (R101) -/

theorem exec_create_of_cause {s : State} {src0 src1 : Option Nat} {timeout : Option Int} {cause : ConfigCause}
    (hv : configValid s.par = true) (hc : createCause s.par src0 src1 timeout = some cause) :
    exec (.create src0 src1 timeout) s = .next (raiseConfiguration cause s) := by
  simp [exec, execCreate, hv, hc]

theorem exec_create_of_no_cause {s : State} {src0 src1 : Option Nat} {timeout : Option Int}
    (hv : configValid s.par = true) (hc : createCause s.par src0 src1 timeout = none) :
    exec (.create src0 src1 timeout) s =
      .next (countDraw (freshBlock (src0.getD 0) (src1.getD 0) (timeoutArg s.par timeout) (drawLat s) s)) := by
  simp [exec, execCreate, hv, hc]

theorem timeoutArg_eq_getD (par : Config) (timeout : Option Int) :
    timeoutArg par timeout = timeout.getD (500 * (par.ms : Int)) := by
  cases timeout <;> rfl

/-- R7, R101: in range the default timeout is positive, so only a given one can fail. -/
theorem timeoutArg_pos {par : Config} (hv : configValid par = true) {timeout : Option Int}
    (h : ∀ t, timeout = some t → 0 < t) : 0 < timeoutArg par timeout := by
  cases timeout with
  | none =>
    obtain ⟨-, hms, -⟩ := (configValid_iff par).1 hv
    rw [timeoutArg]; omega
  | some t => exact h t rfl

section

variable (par : Config) (timeout : Option Int)

theorem createCause_source0Absent (src1 : Option Nat) :
    createCause par none src1 timeout = some .source0Absent := rfl

theorem createCause_source1Absent (a : Nat) :
    createCause par (some a) none timeout = some .source1Absent := rfl

theorem createCause_notDistinct (a : Nat) :
    createCause par (some a) (some a) timeout = some .notDistinct := by
  simp [createCause]

/-- R101: with two present, distinct sources only the timeout is left to test. -/
theorem createCause_of_distinct {a b : Nat} (hab : a ≠ b) :
    createCause par (some a) (some b) timeout =
      if timeoutArg par timeout ≤ 0 then some .timeoutNotPositive else none := by
  simp [createCause, hab]

end

/-- Settles O8: distinct present sources and a positive timeout meet no cause. -/
theorem createStartsAFreshBlock : Obligations.CreateStartsAFreshBlock := by
  intro s a b timeout hv hab hpos
  have hnone : createCause s.par (some a) (some b) timeout = none := by
    rw [createCause_of_distinct _ _ hab, if_neg (not_le.2 (timeoutArg_pos hv hpos))]
  rw [exec_create_of_no_cause hv hnone, timeoutArg_eq_getD]
  rfl

/-- Settles O9: each clause names the first test that its arguments meet. -/
theorem createReportsTheFirstCause : Obligations.CreateReportsTheFirstCause := by
  intro s src0 src1 timeout hv failed
  refine ⟨?_, ?_, ?_, ?_⟩
  · rintro rfl
    exact exec_create_of_cause hv (createCause_source0Absent ..)
  · rintro a rfl rfl
    exact exec_create_of_cause hv (createCause_source1Absent ..)
  · rintro a rfl rfl
    exact exec_create_of_cause hv (createCause_notDistinct ..)
  · rintro a b t rfl rfl hab rfl ht
    exact exec_create_of_cause hv ((createCause_of_distinct _ _ hab).trans (if_pos ht))

/-! ### SUBSCRIBE and NOP (R102, R103) -/

/-- Settles O13: in a running block SUBSCRIBE is its write. -/
theorem subscribeAppendsTheHandler : Obligations.SubscribeAppendsTheHandler :=
  fun _ h hl => exec_of_live hl (w := addSub h) rfl

/-- Settles O14: NOP has no guard and no write. -/
theorem nopChangesNothing : Obligations.NopChangesNothing := fun _ => rfl

/-! ### Edges (R104 to R107) -/

theorem exec_edge0_of_live {s : State} (hl : live s = true) (t : Int) :
    exec (.edge0 t) s = .next { s with acc := trunc s.par (2 * s.acc), lat := t } := by
  rw [exec_of_live hl rfl, shiftIn_eq, Bool.toNat_false, Nat.add_zero]

theorem exec_edge1_of_live {s : State} (hl : live s = true) (t : Int) :
    exec (.edge1 t) s = .next { s with acc := trunc s.par (2 * s.acc + 1), lat := t } := by
  rw [exec_of_live hl rfl, shiftIn_eq, Bool.toNat_true]

theorem exec_edgex_of_live {s : State} (hl : live s = true) (p : Nat) (t : Int) :
    exec (.edgex p t) s = .next { s with fault := .invalidPort p } :=
  exec_of_live hl (w := raiseInvalidPort p) rfl

/-- R104: an operation whose write is that of an EDGE answers the same, in every state. -/
theorem exec_eq_exec_edge {i : Instr} {w : State → State} {p : Nat} {t : Int} {s : State} (hw : frameWrite i = some w)
    (he : edgeOn p t s = w s) : exec i s = exec (.edge p t) s := by
  rw [exec_frameWrite hw, exec_frameWrite rfl, whenLive, whenLive, he]

/-- Settles O15: the test of the ports that holds picks the write of the resolved operation. -/
theorem edgeResolvesByPort : Obligations.EdgeResolvesByPort := by
  intro s p t hl hports
  refine ⟨fun hA => ?_, fun hB => ?_, fun hA hB => ?_⟩
  · have hsame : exec (.edge0 t) s = exec (.edge p t) s := exec_eq_exec_edge rfl (if_pos hA)
    exact ⟨hsame ▸ exec_edge0_of_live hl t, hsame⟩
  · have hA : p ≠ s.portA := hB.trans_ne hports.symm
    have hsame : exec (.edge1 t) s = exec (.edge p t) s :=
      exec_eq_exec_edge rfl ((if_neg hA).trans (if_pos hB))
    exact ⟨hsame ▸ exec_edge1_of_live hl t, hsame⟩
  · have hsame : exec (.edgex p t) s = exec (.edge p t) s :=
      exec_eq_exec_edge rfl ((if_neg hA).trans (if_neg hB))
    exact ⟨hsame ▸ exec_edgex_of_live hl p t, hsame⟩

/-- Settles O16: the bit of line A adds nothing to `2 * ACC`. -/
theorem edgeZeroShiftsInAZero : Obligations.EdgeZeroShiftsInAZero := fun _ t hl => exec_edge0_of_live hl t

/-- Settles O17: reduction to at least 26 bits keeps the parity of `2 * ACC + 1`. -/
theorem edgeOneShiftsInAOne : Obligations.EdgeOneShiftsInAOne := by
  refine fun s t hl => ⟨exec_edge1_of_live hl t, fun hv => ?_⟩
  rw [trunc_mod_two hv]
  omega

/-- Settles O18, by the two arms of the guard of R117. -/
theorem edgeXFaultsAndHalts : Obligations.EdgeXFaultsAndHalts := by
  refine fun s p t => ⟨fun hl => ⟨exec_edgex_of_live hl p t, ?_⟩, fun hc hh => whenLive_of_halted hc hh _⟩
  exact (halted_iff _).2 nofun

/-! ### Ticks (R109, R110) -/

/-- Settles O19: with ACC = 0 there is nothing to emit, and else the time is not over. -/
theorem tickIdleChangesNothing : Obligations.TickIdleChangesNothing := by
  intro s now hl hidle
  rw [exec_tick_of_live hl]
  rcases hidle with hacc | hwait
  · rw [pollTick_of_idle hacc]
  · rw [pollTick_of_waiting hwait]

/-- Settles O20: the tick fires, and a finalize writes OUT and ACC. -/
theorem tickFinalizes : Obligations.TickFinalizes := by
  intro s now hl hacc hover
  rw [exec_tick_of_live hl, pollTick_of_expired hacc hover]
  rfl

/-! ### Halted and missing blocks (R117) -/

theorem exists_frameWrite_of_decoderEvent {i : Instr} (h : decoderEvent i = true) : ∃ w, frameWrite i = some w := by
  cases i
  case subscribe | edge | edge0 | edge1 | edgex | tick => exact ⟨_, rfl⟩
  all_goals cases h

/-- R130: a codec query writes its answer and nothing else. -/
theorem exec_of_codecQuery {i : Instr} (h : codecQuery i = true) (s : State) :
    ∃ answer, exec i s = .next { s with reply := answer } := by
  cases i
  case fromraw | lpb | fc | cn | tpb | isvalid | tostring => exact ⟨_, rfl⟩
  all_goals cases h

/-- R195: only CREATE and rst lead out of the halted state. -/
theorem create_or_rst_of_leaves_halted {s s' : State} {i : Instr} (hh : halted s = true) (h : exec i s = .next s')
    (hh' : halted s' = false) :
    (∃ src0 src1 timeout, i = .create src0 src1 timeout) ∨ ∃ d1n d0n, i = .cycle true d1n d0n := by
  by_contra hother
  simp only [not_or, not_exists] at hother
  obtain ⟨hcreate, hrst⟩ := hother
  obtain ⟨hfault, -⟩ := faultIsStickyAndFreezesTheBlock s s' i hh h hcreate hrst
  rw [halted, hfault, ← halted, hh] at hh'
  cases hh'

/-- Settles O21: the guard of R117 for the frame decoder, and no guard for NOP and the codec. -/
theorem haltedAndMissingBlocks : Obligations.HaltedAndMissingBlocks := by
  refine fun s i => ⟨fun hc hh hi => ?_, fun s' => create_or_rst_of_leaves_halted, fun hc hi => ?_, ?_,
    fun hi => exec_of_codecQuery hi s⟩
  · rcases hi with hi | rfl
    · obtain ⟨w, hw⟩ := exists_frameWrite_of_decoderEvent hi
      rw [exec_frameWrite hw, whenLive_of_halted hc hh]
    · rfl
  · obtain ⟨w, hw⟩ := exists_frameWrite_of_decoderEvent hi
    rw [exec_frameWrite hw, whenLive_of_uncreated hc]
  · rintro rfl; rfl

/-! ### Runs of ticks (R115) -/

/-- A run of ticks none of which does anything. -/
theorem runEvents_ticks_of_fixed {s : State} (hl : live s = true) {nows : List Int}
    (h : ∀ n ∈ nows, pollTick n s = s) : runEvents (nows.map .tick) s = .next s := by
  induction nows with
  | nil => rfl
  | cons n nows ih =>
    obtain ⟨hn, hnows⟩ := List.forall_mem_cons.1 h
    rw [List.map_cons, runEvents_cons (exec_tick_of_live hl n), hn, ih hnows]

/-- R109: while ACC = 0 no tick does anything. -/
theorem runEvents_ticks_of_idle {s : State} (hl : live s = true) (hacc : s.acc = 0) (nows : List Int) :
    runEvents (nows.map .tick) s = .next s :=
  runEvents_ticks_of_fixed hl fun n _ => pollTick_of_idle hacc n

/-- R115: the first tick over the timeout finalizes; those before it wait, and those after it meet ACC = 0. -/
theorem runEvents_ticks_of_expired {s : State} (hl : live s = true) (hacc : s.acc ≠ 0) {nows : List Int}
    (h : ∃ n ∈ nows, s.tInact < n - s.lat) : runEvents (nows.map .tick) s = .next (finalize s) := by
  induction nows with
  | nil => obtain ⟨n, hn, -⟩ := h; cases hn
  | cons n nows ih =>
    rw [List.map_cons, runEvents_cons (exec_tick_of_live hl n)]
    by_cases hover : s.tInact < n - s.lat
    · rw [pollTick_of_expired hacc hover]
      exact runEvents_ticks_of_idle (s := finalize s) hl rfl nows
    · rw [pollTick_of_waiting (not_lt.1 hover)]
      exact ih ((List.exists_mem_cons_iff ..).1 h |>.resolve_left hover)

/-- Settles O34: with a tick over the timeout the run is one finalize, and with none every tick waits. -/
theorem finalizeOnSilence : Obligations.FinalizeOnSilence := fun _ _ hl hacc =>
  ⟨fun hover => runEvents_ticks_of_expired hl hacc hover,
    fun hwait => runEvents_ticks_of_fixed hl fun n hn => pollTick_of_waiting (hwait n hn)⟩

/-! ### Runs without a 1 (R116) -/

/-- R105, R109: the writes of an operation that shifts no 1 in leave an idle block idle and its output alone. -/
theorem frameWrite_of_idle {i : Instr} {w : State → State} (hw : frameWrite i = some w) {s : State} (hacc : s.acc = 0)
    (h1 : ∀ t, i ≠ .edge1 t) (hB : ∀ t, i ≠ .edge s.portB t) : (w s).acc = 0 ∧ (w s).out = s.out := by
  have zero (t : Int) : (shiftIn false t s).acc = 0 ∧ (shiftIn false t s).out = s.out := by simp [hacc]
  cases i <;> simp only [frameWrite, Option.some.injEq, reduceCtorEq] at hw <;> subst hw
  case subscribe k => exact ⟨hacc, rfl⟩
  case edge p t =>
    rcases edgeOn_cases p t s with ⟨-, he⟩ | ⟨-, rfl, -⟩ | ⟨-, -, he⟩
    · rw [he]; exact zero t
    · exact absurd rfl (hB t)
    · rw [he]; exact ⟨hacc, rfl⟩
  case edge0 t => exact zero t
  case edge1 t => exact absurd rfl (h1 t)
  case edgex p t => exact ⟨hacc, rfl⟩
  case tick now => rw [pollTick_of_idle hacc]; exact ⟨hacc, rfl⟩

/-- Settles O35, by induction on the run: every step keeps ACC = 0, OUT and PORT_B. -/
theorem noEmitOnIdle : Obligations.NoEmitOnIdle := by
  intro s s' events hacc hout hevents hrun
  induction events generalizing s with
  | nil => cases hrun; exact ⟨hacc, hout⟩
  | cons i events ih =>
    obtain ⟨⟨h1, hB, hcreate, hcycle⟩, hrest⟩ := List.forall_mem_cons.1 hevents
    obtain ⟨t, hexec, hrun⟩ := runEvents_cons_next hrun
    obtain ⟨-, hcfg⟩ := configurationIsImmutable s t i hexec
    obtain ⟨-, hportB, -⟩ := hcfg hcreate (hcycle true)
    have hidle : t.acc = 0 ∧ t.out = s.out := by
      rcases exec_next_of_no_reset hexec hcreate (hcycle true) with
        ⟨w, hw, -, rfl⟩ | ⟨r, rfl⟩ | ⟨x, y, rfl, -⟩ | ⟨x, y, rfl, -⟩
      · exact frameWrite_of_idle hw hacc h1 hB
      · exact ⟨hacc, rfl⟩
      · exact absurd rfl (hcycle false x y)
      · exact absurd rfl (hcycle false x y)
    exact ih t hidle.1 (hidle.2.trans hout) (by rwa [hportB]) hrun

/-! ### Runs of edges and ticks (R114) -/

/-- R104 to R108: an edge of either line shifts its bit in, and the rest of `edgeOrTick` are ticks. -/
theorem edgeOrTick_cases {i : Instr} (h : edgeOrTick i = true) :
    (∃ (b : Bool) (t : Int), i = if b then .edge1 t else .edge0 t) ∨ ∃ now, i = .tick now := by
  cases i
  case edge0 t => exact .inl ⟨false, t, rfl⟩
  case edge1 t => exact .inl ⟨true, t, rfl⟩
  case tick now => exact .inr ⟨now, rfl⟩
  all_goals cases h

/-- R41(d): a run of edges and ticks only adds to OUT. -/
theorem out_prefix_of_runEvents {s s' : State} {events : List Instr} (hevents : ∀ i ∈ events, edgeOrTick i = true)
    (hrun : runEvents events s = .next s') : s.out <+: s'.out := by
  induction events generalizing s with
  | nil => cases hrun; exact List.prefix_rfl
  | cons i events ih =>
    obtain ⟨hi, hrest⟩ := List.forall_mem_cons.1 hevents
    obtain ⟨t, hexec, hrun⟩ := runEvents_cons_next hrun
    obtain ⟨-, hout⟩ := subscribersAndOutputOnlyGrow s t i hexec (by rintro _ _ _ rfl; cases hi)
      (by rintro _ _ rfl; cases hi)
    refine List.IsPrefix.trans ?_ (ih hrest hrun)
    rcases hout with hout | ⟨e, hout, -⟩ <;> rw [hout]
    · exact List.prefix_append _ _

theorem lastEdgeTime_cons_edge (b : Bool) (t : Int) (events : List Instr) :
    lastEdgeTime ((if b then .edge1 t else .edge0 t) :: events) = some ((lastEdgeTime events).getD t) := by
  cases b <;> cases h : lastEdgeTime events <;> simp [lastEdgeTime, h]

theorem lastEdgeTime_cons_tick (now : Int) (events : List Instr) :
    lastEdgeTime (.tick now :: events) = lastEdgeTime events := by
  cases h : lastEdgeTime events <;> simp [lastEdgeTime, h]

theorem edgeBit_edge (b : Bool) (t : Int) : edgeBit (if b then .edge1 t else .edge0 t) = some b := by
  cases b <;> rfl

/-- R114: a run of edges and ticks that emits nothing shifts the bits of its edges in and sets LAT to the last time. -/
theorem runEvents_edgeOrTick {s s' : State} {events : List Instr} (hl : live s = true)
    (hevents : ∀ i ∈ events, edgeOrTick i = true) (hrun : runEvents events s = .next s') (hout : s'.out = s.out) :
    s' = { s with acc := shiftBits s.par s.acc (events.filterMap edgeBit)
                  lat := (lastEdgeTime events).getD s.lat } := by
  induction events generalizing s with
  | nil => cases hrun; rfl
  | cons i events ih =>
    obtain ⟨hi, hrest⟩ := List.forall_mem_cons.1 hevents
    rcases edgeOrTick_cases hi with ⟨b, t, rfl⟩ | ⟨now, rfl⟩
    · rw [runEvents_cons (exec_edge_of_live hl b t)] at hrun
      rw [ih (s := shiftIn b t s) hl hrest hrun hout, shiftIn_eq, List.filterMap_cons_some (edgeBit_edge b t),
        shiftBits_cons, lastEdgeTime_cons_edge, Option.getD_some]
    · rw [runEvents_cons (exec_tick_of_live hl now)] at hrun
      rcases pollTick_cases now s with ⟨-, -, he⟩ | ⟨-, he⟩ <;> rw [he] at hrun
      · have hlonger := (out_prefix_of_runEvents hrest hrun).length_le
        simp [hout] at hlonger
      · rw [lastEdgeTime_cons_tick]
        exact ih hl hrest hrun hout

/-- Settles O33: an ACC that fits is reduced already, and reducing at every shift is reducing once at the end. -/
theorem accumulationClosedForm : Obligations.AccumulationClosedForm := by
  intro s s' events hl hfits hevents hrun hout
  have hend := runEvents_edgeOrTick hl hevents hrun hout
  rw [← trunc_of_fitsAcc hfits, shiftBits_trunc] at hend
  refine ⟨?_, fun t ht => ?_, fun hnone => ?_⟩
  · rw [hend]
  · rw [hend, ht]; rfl
  · rw [hend, hnone]; rfl

end Sys2Proof.Machine
end

section
/-! The statements of spec/41_card_codec.md: the fields (R131 to R135), ISVALID (R136, R138), TOSTRING (R137), and what
the layout and the parity bits give (R139). -/

namespace Sys2Proof.Machine

/-! ### The fields as arithmetic (R132 to R135) -/

section
variable (raw : Nat)

theorem tpbOf_eq : tpbOf raw = BitVec.ofNat 1 (raw % 2) := by
  rw [tpbOf, slice_eq, Nat.pow_zero, Nat.div_one, Nat.pow_one]

theorem cnOf_eq : cnOf raw = BitVec.ofNat 16 (raw / 2 % 2 ^ 16) := by
  rw [cnOf, slice_eq, Nat.pow_one]

theorem fcOf_eq : fcOf raw = BitVec.ofNat 8 (raw / 2 ^ 17 % 2 ^ 8) := slice_eq raw 17 8

theorem lpbOf_eq : lpbOf raw = BitVec.ofNat 1 (raw / 2 ^ 25 % 2) := by
  rw [lpbOf, slice_eq, Nat.pow_one]

end

/-- Settles O23: each answer is the field of the layout. -/
theorem codecAnswersTheFields : Obligations.CodecAnswersTheFields := by
  intro s raw
  rw [← tpbOf_eq, ← cnOf_eq, ← fcOf_eq, ← lpbOf_eq]
  exact ⟨rfl, rfl, rfl, rfl, rfl⟩

/-- Settles O26: the five arguments of RENDER are the fields and the verdict. -/
theorem toStringRendersTheFiveItems : Obligations.ToStringRendersTheFiveItems := by
  intro s raw
  rw [← lpbOf_eq, ← fcOf_eq, ← cnOf_eq, ← tpbOf_eq]
  rfl

/-! ### Bits 26 and above (R77, R138) -/

/-- A slice does not reach past its own last bit. -/
theorem slice_mod_two_pow {lo width n : Nat} (h : lo + width ≤ n) (v : Nat) :
    slice (v % 2 ^ n) lo width = slice v lo width := by
  refine BitVec.eq_of_getLsbD_eq fun k hk => ?_
  have hbelow : lo + k < n := by omega
  simp [slice_getLsbD, Nat.testBit_mod_two_pow, hbelow]

theorem groupsValid_mod (raw : Nat) : groupsValid (raw % 2 ^ 26) = groupsValid raw := by
  rw [groupsValid, evenGroup, oddGroup, slice_mod_two_pow (by decide), slice_mod_two_pow (by decide)]
  rfl

/-- Settles O28: every field and both groups lie below bit 26. -/
theorem accessorsIgnoreHighBits : Obligations.AccessorsIgnoreHighBits := by
  intro raw
  have below {lo width : Nat} (h : lo + width ≤ 26) : slice raw lo width = slice (raw % 2 ^ 26) lo width :=
    (slice_mod_two_pow h raw).symm
  exact ⟨below (by decide), below (by decide), below (by decide), below (by decide), (groupsValid_mod raw).symm⟩

/-! ### The weights of the groups (R136, R138) -/

/-- The weight of a value is the number of the set bits in the positions it is taken from. -/
theorem popcount_eq_length_filter {n v : Nat} (h : v < 2 ^ n) {p : Nat → Bool} (hp : ∀ k < n, v.testBit k = p k) :
    popcount v = ((List.range n).filter p).length := by
  rw [popcount_eq_countP_testBit h, ← List.countP_eq_length_filter]
  exact List.countP_congr fun k hk => by rw [hp k (List.mem_range.1 hk)]

theorem popcount_slice (v lo width : Nat) :
    popcount (slice v lo width).toNat = ((List.range width).filter fun k => v.testBit (lo + k)).length := by
  refine popcount_eq_length_filter (slice v lo width).isLt fun k hk => ?_
  rw [BitVec.testBit_toNat, slice_getLsbD, decide_eq_true hk, Bool.true_and]

theorem popcount_oddGroup (raw : Nat) :
    popcount (oddGroup raw).toNat = ((List.range 13).filter fun k => raw.testBit k).length := by
  rw [oddGroup, popcount_slice]; simp only [Nat.zero_add]

theorem popcount_shiftRight {n v : Nat} (h : v < 2 ^ n) (lo : Nat) :
    popcount (v >>> lo) = ((List.range n).filter fun k => v.testBit (lo + k)).length :=
  popcount_eq_length_filter (Nat.lt_of_le_of_lt (Nat.shiftRight_le v lo) h) fun _ _ => Nat.testBit_shiftRight v

theorem groupsValid_iff (raw : Nat) :
    groupsValid raw = true ↔ popcount (evenGroup raw).toNat % 2 = 0 ∧ popcount (oddGroup raw).toNat % 2 = 1 := by
  simp only [groupsValid, evenWeight, oddWeight, Bool.and_eq_true, decide_eq_true_eq]

theorem isValidOf_upperUnmasked_iff (raw : Nat) :
    isValidOf .upperUnmasked raw = true ↔
      popcount (raw >>> 13) % 2 = 0 ∧ popcount (oddGroup raw).toNat % 2 = 1 := by
  simp only [isValidOf, evenWeight, oddWeight, Bool.and_eq_true, decide_eq_true_eq]

theorem isValidOf_falseIfHigh_iff (raw : Nat) :
    isValidOf .falseIfHigh raw = true ↔ raw < 2 ^ 26 ∧ groupsValid raw = true := by
  rw [isValidOf, Bool.and_eq_true, decide_eq_true_eq]

/-- Settles O25: the weights that ISVALID compares are the counts of set bits. -/
theorem isValidCountsTheGroups : Obligations.IsValidCountsTheGroups := by
  intro s raw n h
  rw [← popcount_oddGroup, ← popcount_slice raw 13 13, ← popcount_shiftRight h 13]
  refine ⟨isValidOf s.par.isValidWide raw, rfl, fun hw => ?_, fun hw => ?_, fun hw => ?_⟩ <;> rw [hw]
  · exact groupsValid_iff raw
  · rw [isValidOf_falseIfHigh_iff, groupsValid_iff, evenGroup]
  · exact isValidOf_upperUnmasked_iff raw

/-! ### Composition and extraction (R139(a)) -/

section
variable (l : BitVec 1) (f : BitVec 8) (c : BitVec 16) (t : BitVec 1)

theorem lpbOf_compose : lpbOf (compose l f c t) = l := by
  have hl := l.isLt; have hf := f.isLt; have hc := c.isLt; have ht := t.isLt
  apply BitVec.eq_of_toNat_eq
  rw [lpbOf, slice_toNat, compose_eq]; omega

theorem tpbOf_compose : tpbOf (compose l f c t) = t := by
  have ht := t.isLt
  apply BitVec.eq_of_toNat_eq
  rw [tpbOf, slice_toNat, compose_eq]; omega

end

/-- R76: a value below 2^26 is made of its own fields. -/
theorem compose_fields {raw : Nat} (h : raw < 2 ^ 26) :
    compose (lpbOf raw) (fcOf raw) (cnOf raw) (tpbOf raw) = raw := by
  rw [compose_eq, lpbOf, fcOf, cnOf, tpbOf, slice_toNat, slice_toNat, slice_toNat, slice_toNat]
  omega

/-- Settles O27: the fields partition the 26 bits. -/
theorem composeAndExtractAreInverse : Obligations.ComposeAndExtractAreInverse :=
  ⟨fun _ _ _ _ => ⟨compose_lt .., lpbOf_compose .., fcOf_compose .., cnOf_compose .., tpbOf_compose ..⟩,
    fun _ h => compose_fields h⟩

/-! ### The parity bits (R139(c), R139(d)) -/

/-- Settles O30: each group holds one parity bit, which its weight without it determines. -/
theorem validParityBitsAreUnique : Obligations.ValidParityBitsAreUnique := by
  intro l f c t wide
  have hl := l.isLt; have hf := f.isLt; have hc := c.isLt; have ht := t.isLt
  rw [isValidOf_iff_of_lt wide (compose_lt ..), compose_div, compose_mod, popcount_add_shift 12 _ _ (by omega),
    popcount_add_shift 1 _ _ ht, popcount_bit, popcount_bit, ← BitVec.toNat_inj, ← BitVec.toNat_inj, toNat_validLpb,
    toNat_validTpb]
  omega

theorem validCard_injective : Function.Injective fun p : BitVec 8 × BitVec 16 => validCard p.1 p.2 := by
  rintro ⟨f, c⟩ ⟨f', c'⟩ h
  have hf := congrArg fcOf h
  have hc := congrArg cnOf h
  simp only [validCard, fcOf_compose, cnOf_compose] at hf hc
  rw [hf, hc]

/-- R139(d): the valid values below 2^26 are the valid cards of R76. -/
theorem filter_isValidOf (wide : IsValidWide) :
    ((Finset.range (2 ^ 26)).filter fun raw => isValidOf wide raw = true) =
      Finset.univ.image fun p : BitVec 8 × BitVec 16 => validCard p.1 p.2 := by
  ext raw
  simp only [Finset.mem_filter, Finset.mem_range, Finset.mem_image, Finset.mem_univ, true_and]
  constructor
  · rintro ⟨hlt, hvalid⟩
    rw [← compose_fields hlt] at hvalid
    obtain ⟨hl, ht⟩ := (validParityBitsAreUnique ..).1 hvalid
    refine ⟨(fcOf raw, cnOf raw), ?_⟩
    rw [validCard, ← hl, ← ht, compose_fields hlt]
  · rintro ⟨⟨f, c⟩, rfl⟩
    exact ⟨compose_lt .., isValidOf_validCard wide f c⟩

/-- Settles O29: there is one valid card for each of the 2^8 facility codes and 2^16 card numbers. -/
theorem quarterOfTheValuesAreValid : Obligations.QuarterOfTheValuesAreValid := by
  intro wide
  rw [filter_isValidOf, Finset.card_image_of_injective _ validCard_injective, Finset.card_univ, Fintype.card_prod,
    ← FinEnum.card_eq_fintypeCard, ← FinEnum.card_eq_fintypeCard, FinEnum.card_bitVec, FinEnum.card_bitVec,
    ← Nat.pow_add]

/-! ### Changed bits (R139(e)) -/

/-- The parity of the weight of an exclusive or is the sum of the parities. -/
theorem popcount_xor_mod_two (v w : Nat) : popcount (v ^^^ w) % 2 = (popcount v + popcount w) % 2 := by
  induction v using Nat.strong_induction_on generalizing w with
  | _ v ih =>
    rcases Nat.eq_zero_or_pos v with rfl | hpos
    · rw [Nat.zero_xor, popcount_zero, Nat.zero_add]
    · have hhalf := ih (v / 2) (by omega) (w / 2)
      have hbit : (v ^^^ w) % 2 = (v + w) % 2 := Nat.xor_mod_two_eq
      rw [popcount_rec (v ^^^ w), Nat.xor_div_two, popcount_rec v, popcount_rec w]
      omega

theorem popcount_two_pow (k : Nat) : popcount (2 ^ k) = 1 := by
  simpa [popcount_rec 1] using popcount_add_shift k 0 1 (Nat.two_pow_pos k)

/-- R136: changing bit `k` changes the parity of the upper group when `k` lies in it. -/
theorem popcount_xor_two_pow_div (n k v : Nat) :
    popcount ((v ^^^ 2 ^ k) / 2 ^ n) % 2 = (popcount (v / 2 ^ n) + if k < n then 0 else 1) % 2 := by
  rw [Nat.xor_div_two_pow, popcount_xor_mod_two]
  split
  case isTrue h => rw [Nat.div_eq_of_lt (Nat.pow_lt_pow_right (by decide) h), popcount_zero]
  case isFalse h => rw [Nat.pow_div (not_lt.1 h) (by decide), popcount_two_pow]

/-- R136: changing bit `k` changes the parity of the lower group when `k` lies in it. -/
theorem popcount_xor_two_pow_mod (n k v : Nat) :
    popcount ((v ^^^ 2 ^ k) % 2 ^ n) % 2 = (popcount (v % 2 ^ n) + if k < n then 1 else 0) % 2 := by
  rw [Nat.xor_mod_two_pow, popcount_xor_mod_two]
  split
  case isTrue h => rw [Nat.mod_eq_of_lt (Nat.pow_lt_pow_right (by decide) h), popcount_two_pow]
  case isFalse h => rw [Nat.mod_eq_zero_of_dvd (Nat.pow_dvd_pow 2 (not_lt.1 h)), popcount_zero]

/-- Settles O31: a changed bit changes the parity of its own group alone, and a second one in it changes it back. -/
theorem singleBitErrorsAreDetected : Obligations.SingleBitErrorsAreDetected := by
  intro raw k l hraw hvalid hk
  have flipLt {v j : Nat} (hv : v < 2 ^ 26) (hj : j < 26) : v ^^^ 2 ^ j < 2 ^ 26 :=
    Nat.xor_lt_two_pow hv (Nat.pow_lt_pow_right (by decide) hj)
  have hone := flipLt hraw hk
  obtain ⟨heven, hodd⟩ := (isValidOf_iff_of_lt _ hraw).1 hvalid
  have hupper := popcount_xor_two_pow_div 13 k raw
  have hlower := popcount_xor_two_pow_mod 13 k raw
  refine ⟨?_, fun hl _ hsame => ?_⟩
  · rw [Bool.eq_false_iff, ne_eq, isValidOf_iff_of_lt _ hone]
    split_ifs at hupper hlower <;> omega
  · rw [isValidOf_iff_of_lt _ (flipLt hone hl), popcount_xor_two_pow_div, popcount_xor_two_pow_mod]
    simp only [← hsame]
    split_ifs at hupper hlower ⊢ <;> omega

end Sys2Proof.Machine
end

section
/-! The statements of spec/42_cycle_binding.md: the events of a cycle and their order (R157, R164), rst and the pins (R152,
R159), the comparator and the time base (R155, R156, R162), the refinement of the event machine (R163), and faults (R160,
R165). -/

namespace Sys2Proof.Machine

open Sys2Proof.Safety

/-! ### The events of a cycle: bits around a tick (R154, R164) -/

/-- R157: the event that shifts a bit in. -/
def bitEvent (bit : Bool) : CycleEvent := if bit then .edge1 else .edge0

/-- R164: the bits that an order puts before the tick, and those that it puts after. -/
def slotBits : SlotOrder → List Bool × List Bool
  | .o01T => ([false, true], [])
  | .o10T => ([true, false], [])
  | .o0T1 => ([false], [true])
  | .o1T0 => ([true], [false])
  | .oT01 => ([], [false, true])
  | .oT10 => ([], [true, false])

theorem slotList_eq (o : SlotOrder) :
    slotList o = (slotBits o).1.map bitEvent ++ .tick :: (slotBits o).2.map bitEvent := by
  cases o <;> rfl

theorem slotBits_perm (o : SlotOrder) : ((slotBits o).1 ++ (slotBits o).2).Perm [false, true] := by
  cases o <;> decide

/-- R156: the tick of a cycle in which one is due. -/
def tickEvents (s : State) : List CycleEvent := if s.pcnt = 0 then [.tick] else []

/-- R154: whether the line of a bit falls. -/
def lineFell (s : State) (d1n d0n bit : Bool) : Bool := if bit then fell1 s d1n else fell0 s d0n

theorem fell0_iff (s : State) (d0n : Bool) : fell0 s d0n = true ↔ s.p0 = true ∧ d0n = false := by simp [fell0]

theorem fell1_iff (s : State) (d1n : Bool) : fell1 s d1n = true ↔ s.p1 = true ∧ d1n = false := by simp [fell1]

theorem fell0_eq_false_iff (s : State) (d0n : Bool) : fell0 s d0n = false ↔ (s.p0 = true → d0n = true) := by
  simp [fell0]

theorem fell1_eq_false_iff (s : State) (d1n : Bool) : fell1 s d1n = false ↔ (s.p1 = true → d1n = true) := by
  simp [fell1]

theorem fallingBits_eq_filter (s : State) (d1n d0n : Bool) :
    fallingBits s d1n d0n = [false, true].filter (lineFell s d1n d0n) := by
  cases h0 : fell0 s d0n <;> cases h1 : fell1 s d1n <;> simp [fallingBits, lineFell, h0, h1]

/-- R157, R164: the events of a cycle are the bits `before` the tick, the tick if one is due, and the bits `after` it. The
falling lines give these bits in the order that SAME_CYCLE_ORDER fixes. -/
structure CycleSplit (s : State) (d1n d0n : Bool) (before after : List Bool) : Prop where
  events : cycleEvents s d1n d0n = before.map bitEvent ++ tickEvents s ++ after.map bitEvent
  perm : (before ++ after).Perm (fallingBits s d1n d0n)
  fixed : s.par.sameCycleOrder ≠ .any → before ++ after = fallingBits s d1n d0n
  edgesFirst : s.par.sameCycleOrder = .edgesFirst → after = []
  tickFirst : s.par.sameCycleOrder = .tickFirst → s.pcnt = 0 → before = []

/-- R164: the order applied in a cycle. -/
def cycleOrder (s : State) (d1n d0n : Bool) : SlotOrder :=
  if contended (fell0 s d0n) (fell1 s d1n) (tickDue s) then slotOrder s else .o01T

theorem cycleEvents_eq_filter (s : State) (d1n d0n : Bool) :
    cycleEvents s d1n d0n =
      (slotList (cycleOrder s d1n d0n)).filter (present (fell0 s d0n) (fell1 s d1n) (tickDue s)) := rfl

/-- R164: a tick that is due and not contended has no falling line beside it. -/
theorem cycleOrder_cases (s : State) (d1n d0n : Bool) :
    cycleOrder s d1n d0n = slotOrder s ∨
      cycleOrder s d1n d0n = .o01T ∧ (s.pcnt = 0 → fallingBits s d1n d0n = []) := by
  unfold cycleOrder
  split
  · exact .inl rfl
  · rename_i hsingle
    refine .inr ⟨rfl, fun hp => ?_⟩
    cases h0 : fell0 s d0n <;> cases h1 : fell1 s d1n <;> simp [contended, tickDue, hp, h0, h1] at hsingle
    simp [fallingBits, h0, h1]

/-- R164: each fixed order puts the zero line before the one line. -/
theorem slotBits_of_fixed {s : State} (h : s.par.sameCycleOrder ≠ .any) :
    (slotBits (slotOrder s)).1 ++ (slotBits (slotOrder s)).2 = [false, true] := by
  unfold slotOrder
  split
  · rfl
  · rfl
  · exact absurd ‹_› h

theorem filter_map_bitEvent (s : State) (d1n d0n : Bool) (bits : List Bool) :
    (bits.map bitEvent).filter (present (fell0 s d0n) (fell1 s d1n) (tickDue s)) =
      (bits.filter (lineFell s d1n d0n)).map bitEvent := by
  rw [List.filter_map]
  congr 2
  funext bit
  cases bit <;> rfl

theorem exists_cycleSplit (s : State) (d1n d0n : Bool) : ∃ before after, CycleSplit s d1n d0n before after := by
  have order := cycleOrder_cases s d1n d0n
  refine ⟨(slotBits (cycleOrder s d1n d0n)).1.filter (lineFell s d1n d0n),
    (slotBits (cycleOrder s d1n d0n)).2.filter (lineFell s d1n d0n), ?_, ?_, ?_, ?_, ?_⟩
  · rw [← filter_map_bitEvent, ← filter_map_bitEvent, tickEvents, List.append_assoc, cycleEvents_eq_filter, slotList_eq,
      List.filter_append, List.filter_cons]
    by_cases hp : s.pcnt = 0 <;> simp [present, tickDue, hp]
  · rw [fallingBits_eq_filter, ← List.filter_append]
    exact (slotBits_perm _).filter _
  · intro hfixed
    rw [fallingBits_eq_filter, ← List.filter_append]
    rcases order with h | ⟨h, -⟩ <;> rw [h]
    · rw [slotBits_of_fixed hfixed]
    · rfl
  · intro hfirst
    rcases order with h | ⟨h, -⟩ <;> simp [h, slotOrder, hfirst, slotBits]
  · intro hfirst hp
    rcases order with h | ⟨h, hnone⟩
    · simp [h, slotOrder, hfirst, slotBits]
    · rw [h, ← hnone hp, fallingBits_eq_filter]; rfl

/-! ### The effect of the events of a cycle (R157) -/

/-- R157: bits shifted in one after another at time NOW. -/
def joinBits (bits : List Bool) (s : State) : State :=
  { s with acc := shiftBits s.par s.acc bits, lat := if bits = [] then s.lat else s.now }

@[simp] theorem joinBits_nil (s : State) : joinBits [] s = s := rfl

theorem joinBits_lat {bits : List Bool} (h : bits ≠ []) (s : State) : (joinBits bits s).lat = s.now := if_neg h

theorem joinBits_eq {bits : List Bool} (h : bits ≠ []) (s : State) :
    joinBits bits s = { s with acc := shiftBits s.par s.acc bits, lat := s.now } := by
  rw [joinBits, if_neg h]

theorem joinBits_cons (bit : Bool) (bits : List Bool) (s : State) :
    joinBits (bit :: bits) s = joinBits bits (shiftIn bit s.now s) := by
  simp [joinBits, shiftIn]

theorem joinBits_append (first rest : List Bool) (s : State) :
    joinBits (first ++ rest) s = joinBits rest (joinBits first s) := by
  induction first generalizing s with
  | nil => rfl
  | cons bit first ih => rw [List.cons_append, joinBits_cons, joinBits_cons, ih]

theorem applyCycleEvent_bitEvent (s : State) (bit : Bool) :
    applyCycleEvent s (bitEvent bit) = shiftIn bit s.now s := by cases bit <;> rfl

theorem foldl_map_bitEvent (bits : List Bool) (s : State) :
    (bits.map bitEvent).foldl applyCycleEvent s = joinBits bits s := by
  induction bits generalizing s with
  | nil => rfl
  | cons bit bits ih => rw [List.map_cons, List.foldl_cons, ih, applyCycleEvent_bitEvent, joinBits_cons]

/-- R157, R164: what the events of a cycle do. Either a tick is due and fires after the first bits, the frame goes to the
pins and to OUT, and the other bits start a new one; or all the bits join the frame. -/
theorem CycleSplit.applied {s : State} {d1n d0n : Bool} {before after : List Bool}
    (h : CycleSplit s d1n d0n before after) :
    (s.pcnt = 0 ∧ fireMod (joinBits before s) = true ∧
      cycleApplied d1n d0n s = joinBits after (finalizeToPins (joinBits before s))) ∨
    ((s.pcnt = 0 → fireMod (joinBits before s) = false) ∧
      cycleApplied d1n d0n s = joinBits (before ++ after) (clearStrobe s)) := by
  have applied : cycleApplied d1n d0n s =
      joinBits after ((tickEvents s).foldl applyCycleEvent (joinBits before (clearStrobe s))) := by
    rw [cycleApplied, h.events, List.foldl_append, List.foldl_append, foldl_map_bitEvent, foldl_map_bitEvent]
  have tick : applyCycleEvent (joinBits before (clearStrobe s)) .tick =
      if fireMod (joinBits before s) then finalizeToPins (joinBits before s) else joinBits before (clearStrobe s) := rfl
  rw [applied, joinBits_append]
  by_cases hp : s.pcnt = 0
  · rw [tickEvents, if_pos hp, List.foldl_cons, List.foldl_nil, tick]
    cases hfire : fireMod (joinBits before s) with
    | true => exact .inl ⟨hp, rfl, rfl⟩
    | false => exact .inr ⟨fun _ => rfl, rfl⟩
  · rw [tickEvents, if_neg hp]
    exact .inr ⟨fun h0 => absurd h0 hp, rfl⟩

/-- R157: a live cycle, from the state that its events leave. -/
theorem liveCycle_of_applied {s t : State} {d1n d0n : Bool} (h : cycleApplied d1n d0n s = t) :
    liveCycle d1n d0n s =
      { t with
        p0 := d0n, p1 := d1n, now := (s.now + 1) % 2 ^ s.par.tsW
        pcnt := if s.pcnt = 0 then s.par.tPoll - 1 else s.pcnt - 1
        draws := if orderDrawn s d1n d0n then s.draws + 1 else s.draws } := by
  subst h
  rw [← liveCycle_draws, ← liveCycle_pcnt d1n d0n, ← liveCycle_now d1n d0n]
  obtain ⟨n, hn⟩ := liveCycle_eq d1n d0n s
  rw [hn]; rfl

/-- R162: a tick in the cycle of an edge sees an age of 0, which no timeout lets fire. -/
theorem fireMod_joinBits {s : State} {bits : List Bool} (h : bits ≠ []) (ht : 0 ≤ s.tInact) :
    fireMod (joinBits bits s) = false := by
  rw [Bool.eq_false_iff, ne_eq, fireMod_iff, joinBits_lat h]
  rintro ⟨-, hover⟩
  have hage : ((joinBits bits s).now - s.now : Int) % 2 ^ (joinBits bits s).par.tsW = 0 := by simp [joinBits]
  rw [hage] at hover
  exact absurd hover (not_lt.2 ht)

/-- R164: the draw counter stays where the order is fixed. -/
theorem orderDrawn_of_fixed {s : State} (h : s.par.sameCycleOrder ≠ .any) (d1n d0n : Bool) :
    orderDrawn s d1n d0n = false := by
  simp [orderDrawn, h]

/-! ### The strobe (R158) -/

/-- R158: the strobe is set by a tick that fires, which puts a nonzero value on the pins and into OUT. What it leaves in
ACC came in its own cycle. -/
theorem liveCycle_strobe {s : State} {d1n d0n : Bool} (h : (liveCycle d1n d0n s).outStb = true) :
    s.pcnt = 0 ∧ (liveCycle d1n d0n s).outRaw ≠ 0 ∧
      (liveCycle d1n d0n s).out = s.out ++ [{ raw := (liveCycle d1n d0n s).outRaw, subs := s.subs }] ∧
      ((liveCycle d1n d0n s).acc = 0 ∨ (liveCycle d1n d0n s).lat = s.now) := by
  obtain ⟨before, after, hsplit⟩ := exists_cycleSplit s d1n d0n
  rcases hsplit.applied with ⟨hp, hfire, he⟩ | ⟨-, he⟩ <;> rw [liveCycle_of_applied he] at h ⊢
  · refine ⟨hp, ((fireMod_iff _).1 hfire).1, rfl, ?_⟩
    by_cases hafter : after = []
    · subst hafter; exact .inl rfl
    · exact .inr (joinBits_lat hafter _)
  · cases h

theorem liveCycle_no_strobe {s : State} {d1n d0n : Bool} (h : (liveCycle d1n d0n s).outStb = false) :
    (liveCycle d1n d0n s).out = s.out ∧ (liveCycle d1n d0n s).outRaw = s.outRaw := by
  obtain ⟨before, after, hsplit⟩ := exists_cycleSplit s d1n d0n
  rcases hsplit.applied with ⟨-, -, he⟩ | ⟨-, he⟩ <;> rw [liveCycle_of_applied he] at h ⊢
  · cases h
  · exact ⟨rfl, rfl⟩

/-- R157: the frame of a live cycle. -/
theorem liveCycle_frame (d1n d0n : Bool) (s : State) :
    liveCycle d1n d0n s = { s with
      acc := (liveCycle d1n d0n s).acc, lat := (liveCycle d1n d0n s).lat, out := (liveCycle d1n d0n s).out
      outRaw := (liveCycle d1n d0n s).outRaw, outStb := (liveCycle d1n d0n s).outStb
      draws := (liveCycle d1n d0n s).draws, p0 := d0n, p1 := d1n, now := (s.now + 1) % 2 ^ s.par.tsW
      pcnt := if s.pcnt = 0 then s.par.tPoll - 1 else s.pcnt - 1 } := by
  obtain ⟨before, after, hsplit⟩ := exists_cycleSplit s d1n d0n
  rcases hsplit.applied with ⟨-, -, he⟩ | ⟨-, he⟩ <;> rw [liveCycle_of_applied he] <;> rfl

/-- Settles O49: the frame of a live cycle, and its strobe. -/
theorem everyCycleCompletes : Obligations.EveryCycleCompletes := by
  intro s d1n d0n hv hh
  refine ⟨_, execCycle_live hv hh d1n d0n, liveCycle_frame d1n d0n s, fun hstb => ?_, liveCycle_no_strobe⟩
  obtain ⟨hp, hraw, hout, -⟩ := liveCycle_strobe hstb
  exact ⟨hp, hraw, hout⟩

/-- R158, R162: in the cycle after a strobe no edge in ACC is older than one cycle, so no tick fires. -/
theorem liveCycle_after_strobe {s : State} {d1n d0n : Bool} (ht : 1 ≤ s.tInact)
    (h : (liveCycle d1n d0n s).outStb = true) (y1 y0 : Bool) :
    (liveCycle y1 y0 (liveCycle d1n d0n s)).outStb = false := by
  obtain ⟨-, -, -, hage⟩ := liveCycle_strobe h
  have hnow := liveCycle_now d1n d0n s
  have hpar := liveCycle_par d1n d0n s
  have htimeout := liveCycle_tInact d1n d0n s
  generalize liveCycle d1n d0n s = u at *
  have wait (bits : List Bool) : fireMod (joinBits bits u) = false := by
    by_cases hbits : bits = []
    · rw [hbits, joinBits_nil, Bool.eq_false_iff, ne_eq, fireMod_iff]
      rintro ⟨hacc, hover⟩
      have hlat := hage.resolve_left hacc
      have hone : ((u.now : Int) - u.lat) % 2 ^ u.par.tsW = 1 % 2 ^ u.par.tsW := by
        rw [hnow, hlat, hpar]; push_cast; rw [Int.emod_sub_emod, add_sub_cancel_left]
      have : (1 : Int) % 2 ^ u.par.tsW ≤ 1 := mod_cast Nat.mod_le 1 (2 ^ u.par.tsW)
      omega
    · exact fireMod_joinBits hbits (by omega)
  obtain ⟨before, after, hsplit⟩ := exists_cycleSplit u y1 y0
  rcases hsplit.applied with ⟨-, hfire, -⟩ | ⟨-, he⟩
  · rw [wait before] at hfire; cases hfire
  · rw [liveCycle_of_applied he]; rfl

/-- R157: a cycle whose strobe is set was a cycle of a running block. -/
theorem eq_liveCycle_of_strobe {s s' : State} {d1n d0n : Bool} (h : exec (.cycle false d1n d0n) s = .next s')
    (hstb : s'.outStb = true) : s' = liveCycle d1n d0n s := by
  obtain ⟨-, ⟨hrst, -⟩ | ⟨-, -, rfl⟩ | ⟨-, -, he⟩⟩ := execCycle_next h
  · cases hrst
  · cases hstb
  · exact he

/-- Settles O56: a strobe comes from a live cycle, and the cycle after it does not fire. -/
theorem strobesAreNeverAdjacent : Obligations.StrobesAreNeverAdjacent := by
  intro s s1 s2 x1 x0 y1 y0 ht h1 hstb h2
  have hs1 := eq_liveCycle_of_strobe h1 hstb
  by_contra hne
  have hstb2 : s2.outStb = true := by simpa using hne
  have hs2 := eq_liveCycle_of_strobe h2 hstb2
  rw [hs2, hs1, liveCycle_after_strobe ht (hs1 ▸ hstb)] at hstb2
  cases hstb2

/-! ### The events of a cycle in full (R157, R164) -/

theorem map_fallingBits (s : State) (d1n d0n : Bool) :
    (fallingBits s d1n d0n).map bitEvent =
      (if s.p0 = true ∧ d0n = false then [CycleEvent.edge0] else []) ++
        (if s.p1 = true ∧ d1n = false then [CycleEvent.edge1] else []) := by
  simp only [fallingBits, fell0_iff, fell1_iff, List.map_append, apply_ite (List.map bitEvent)]
  rfl

/-- Settles O52: the bits around the tick are those of the falling lines. -/
theorem cycleAppliesItsEventsInAnAllowedOrder : Obligations.CycleAppliesItsEventsInAnAllowedOrder := by
  intro s d1n d0n e0 e1 tk
  have hedges : (fallingBits s d1n d0n).map bitEvent = e0 ++ e1 := map_fallingBits s d1n d0n
  obtain ⟨before, after, hsplit⟩ := exists_cycleSplit s d1n d0n
  have hevents : cycleEvents s d1n d0n = before.map bitEvent ++ tk ++ after.map bitEvent := hsplit.events
  rw [hevents]
  refine ⟨?_, fun horder => ?_, fun horder => ?_⟩
  · calc before.map bitEvent ++ tk ++ after.map bitEvent
      _ = before.map bitEvent ++ (tk ++ after.map bitEvent) := List.append_assoc ..
      _ |>.Perm (before.map bitEvent ++ (after.map bitEvent ++ tk)) := List.perm_append_comm.append_left _
      _ = (before ++ after).map bitEvent ++ tk := by simp
      _ |>.Perm ((fallingBits s d1n d0n).map bitEvent ++ tk) := (hsplit.perm.map _).append_right _
      _ = e0 ++ e1 ++ tk := by rw [hedges]
  · rw [← hedges, ← hsplit.fixed (by simp [horder]), hsplit.edgesFirst horder]; simp
  · have hbits := hsplit.fixed (by simp [horder])
    rw [List.append_assoc tk, ← hedges, ← hbits]
    by_cases hp : s.pcnt = 0
    · simp [hsplit.tickFirst horder hp]
    · simp [tk, hp]

/-! ### The next state of a cycle -/

/-- Settles O51: with no falling line the tick is the only event. -/
theorem cycleTickFinalizesOntoThePins : Obligations.CycleTickFinalizesOntoThePins := by
  intro s d1n d0n hv hh hp h0 h1
  have hnone : fallingBits s d1n d0n = [] := by
    simp [fallingBits, (fell0_eq_false_iff ..).2 h0, (fell1_eq_false_iff ..).2 h1]
  obtain ⟨before, after, hsplit⟩ := exists_cycleSplit s d1n d0n
  obtain ⟨rfl, rfl⟩ : before = [] ∧ after = [] := by simpa [hnone] using hsplit.perm
  have hdrawn : orderDrawn s d1n d0n = false := by
    simp [orderDrawn, contended, (fell0_eq_false_iff ..).2 h0, (fell1_eq_false_iff ..).2 h1]
  rw [execCycle_live hv hh]
  rcases hsplit.applied with ⟨-, hfire, he⟩ | ⟨hwait, he⟩ <;> rw [liveCycle_of_applied he, hp, hdrawn]
  · rw [if_pos ((fireMod_iff s).1 hfire)]; rfl
  · rw [if_neg fun h => Bool.false_ne_true ((hwait hp).symm.trans ((fireMod_iff s).2 h))]; rfl

/-- R157: the next state of a live cycle with no tick due. -/
theorem liveCycle_of_no_tick {s : State} {d1n d0n : Bool} {before after : List Bool}
    (h : CycleSplit s d1n d0n before after) (hp : s.pcnt ≠ 0) :
    liveCycle d1n d0n s =
      { joinBits (before ++ after) s with
        p0 := d0n, p1 := d1n, now := (s.now + 1) % 2 ^ s.par.tsW, pcnt := s.pcnt - 1, outStb := false
        draws := if orderDrawn s d1n d0n then s.draws + 1 else s.draws } := by
  rcases h.applied with ⟨h0, -, -⟩ | ⟨-, he⟩
  · exact absurd h0 hp
  · rw [liveCycle_of_applied he, if_neg hp]; rfl

/-- R113(a), R164: two bits shifted in one after the other. -/
theorem shiftBits_pair (par : Config) (acc : Nat) (first second : Bool) :
    shiftBits par acc [first, second] = trunc par (4 * acc + 2 * first.toNat + second.toNat) := by
  rw [shiftBits_cons, shiftBits_cons, shiftBits_nil, trunc_shift_trunc]
  congr 1; ring

/-- Settles O50: with no tick due the bits of the falling lines join the frame. -/
theorem cycleWithNoTickDue : Obligations.CycleWithNoTickDue := by
  intro s d1n d0n hv hh hp after
  obtain ⟨first, rest, hsplit⟩ := exists_cycleSplit s d1n d0n
  have hlive := (execCycle_live hv hh d1n d0n).trans (congrArg _ (liveCycle_of_no_tick hsplit hp))
  have hperm := hsplit.perm
  have hfixed := hsplit.fixed
  generalize first ++ rest = bits at hlive hperm hfixed
  have single (h : fell0 s d0n = false ∨ fell1 s d1n = false) : orderDrawn s d1n d0n = false := by
    rcases h with h | h <;> simp [orderDrawn, contended, tickDue, hp, h]
  rw [hlive]
  refine ⟨fun h0 h1 => ?_, fun hp0 hd0 h1 => ?_, fun hp1 hd1 h0 => ?_, fun hp0 hd0 hp1 hd1 => ?_⟩
  · have f0 := (fell0_eq_false_iff s d0n).2 h0
    have f1 := (fell1_eq_false_iff s d1n).2 h1
    have hbits : bits = [] := by simpa [fallingBits, f0, f1] using hperm
    rw [hbits, single (.inl f0)]; rfl
  · have f0 := (fell0_iff s d0n).2 ⟨hp0, hd0⟩
    have f1 := (fell1_eq_false_iff s d1n).2 h1
    have hbits : bits = [false] := by simpa [fallingBits, f0, f1] using hperm
    rw [hbits, single (.inr f1)]; rfl
  · have f0 := (fell0_eq_false_iff s d0n).2 h0
    have f1 := (fell1_iff s d1n).2 ⟨hp1, hd1⟩
    have hbits : bits = [true] := by simpa [fallingBits, f0, f1] using hperm
    rw [hbits, single (.inl f0)]; rfl
  · have f0 := (fell0_iff s d0n).2 ⟨hp0, hd0⟩
    have f1 := (fell1_iff s d1n).2 ⟨hp1, hd1⟩
    have hfalling : fallingBits s d1n d0n = [false, true] := by simp [fallingBits, f0, f1]
    rw [hfalling] at hperm hfixed
    have hbits : bits ≠ [] := by rintro rfl; simp at hperm
    rw [joinBits_eq hbits]
    refine ⟨_, _, rfl, ?_⟩
    by_cases hany : s.par.sameCycleOrder = .any
    · rcases List.perm_pair.1 hperm with h | h
      · exact .inl (by rw [h, shiftBits_pair]; rfl)
      · exact .inr ⟨hany, by rw [h, shiftBits_pair]; rfl⟩
    · exact .inl (by rw [hfixed hany, shiftBits_pair]; rfl)

/-- R164, R162: the next state of a live cycle in which a tick is due and a line falls. A bit before the tick keeps it
from firing, so only the frame of the state before can be emitted. -/
theorem liveCycle_of_tick_and_edge {s : State} {d1n d0n : Bool} {before after : List Bool}
    (h : CycleSplit s d1n d0n before after) (hp : s.pcnt = 0) (ht : 0 ≤ s.tInact) (hbits : before ++ after ≠ []) :
    (fireMod s = true ∧ before = [] ∧ liveCycle d1n d0n s =
      { finalizeToPins s with
        acc := shiftBits s.par 0 after, lat := s.now, p0 := d0n, p1 := d1n, now := (s.now + 1) % 2 ^ s.par.tsW
        pcnt := s.par.tPoll - 1, draws := if orderDrawn s d1n d0n then s.draws + 1 else s.draws }) ∨
    ((fireMod s = true → before ≠ []) ∧ liveCycle d1n d0n s =
      { clearStrobe s with
        acc := shiftBits s.par s.acc (before ++ after), lat := s.now, p0 := d0n, p1 := d1n
        now := (s.now + 1) % 2 ^ s.par.tsW, pcnt := s.par.tPoll - 1
        draws := if orderDrawn s d1n d0n then s.draws + 1 else s.draws }) := by
  rcases h.applied with ⟨-, hfire, he⟩ | ⟨hwait, he⟩
  · have hbefore : before = [] := by
      by_contra hne
      rw [fireMod_joinBits hne ht] at hfire; cases hfire
    subst hbefore
    refine .inl ⟨hfire, rfl, ?_⟩
    rw [liveCycle_of_applied he, joinBits_eq (show after ≠ [] from hbits), if_pos hp]; rfl
  · refine .inr ⟨?_, by rw [liveCycle_of_applied he, joinBits_eq hbits, if_pos hp]; rfl⟩
    rintro hfire rfl
    exact Bool.false_ne_true ((hwait hp).symm.trans hfire)

/-- Settles O53: the old frame is emitted exactly if the tick fires and no bit comes before it. -/
theorem edgesAndTickInOneCycle : Obligations.EdgesAndTickInOneCycle := by
  intro s d1n d0n hv hh hp ht bits hbits fires joined split
  obtain ⟨before, after, hsplit⟩ := exists_cycleSplit s d1n d0n
  have hfires : fires ↔ fireMod s = true := (fireMod_iff s).symm
  have hne : before ++ after ≠ [] := by
    intro h
    have hperm := hsplit.perm
    rw [h, List.nil_perm] at hperm
    exact hbits hperm
  have fixed (horder : s.par.sameCycleOrder ≠ .any) :
      before ++ after = bits ∧ (if orderDrawn s d1n d0n then s.draws + 1 else s.draws) = s.draws :=
    ⟨hsplit.fixed horder, by rw [orderDrawn_of_fixed horder]; rfl⟩
  rw [execCycle_live hv hh]
  rcases liveCycle_of_tick_and_edge hsplit hp ht hne with ⟨hfire, rfl, he⟩ | ⟨hwait, he⟩ <;> rw [he]
  · refine ⟨fun horder => ?_, fun horder => ⟨fun _ => ?_, fun hno => absurd (hfires.2 hfire) hno⟩, fun _ => ?_⟩
    · exact absurd (hsplit.edgesFirst horder) hne
    · obtain ⟨hjoined, hdraws⟩ := fixed (by simp [horder])
      rw [hdraws, show after = bits from hjoined]; rfl
    · exact ⟨after, _, hsplit.perm, .inr ⟨hfires.2 hfire, rfl⟩⟩
  · refine ⟨fun horder => ?_, fun horder => ⟨fun hfire => ?_, fun _ => ?_⟩, fun _ => ?_⟩
    · obtain ⟨hjoined, hdraws⟩ := fixed (by simp [horder])
      rw [hdraws, hjoined]; rfl
    · exact absurd (hsplit.tickFirst horder hp) (hwait (hfires.1 hfire))
    · obtain ⟨hjoined, hdraws⟩ := fixed (by simp [horder])
      rw [hdraws, hjoined]; rfl
    · exact ⟨before ++ after, _, hsplit.perm, .inl rfl⟩

/-! ### rst, a halted cycle and the pins (R152, R157, R159, R161) -/

theorem exec_cycle_of_halted {s : State} (hv : bindingValid s.par = true) (hh : halted s = true) (d1n d0n : Bool) :
    exec (.cycle false d1n d0n) s = .next (clearStrobe s) := by
  simp [exec, execCycle, hv, hh]

/-- R152: what a cycle with rst = 1 can answer. -/
theorem exec_rst_next {s s' : State} {d1n d0n : Bool} (h : exec (.cycle true d1n d0n) s = .next s') :
    bindingValid s.par = true ∧ s' = resetCycle s := by
  obtain ⟨hv, ⟨-, he⟩ | ⟨hrst, -⟩ | ⟨hrst, -⟩⟩ := execCycle_next h
  · exact ⟨hv, he⟩
  · cases hrst
  · cases hrst

/-- Settles O48: a halted cycle is the clearing of the strobe. -/
theorem haltedCycleClearsTheStrobe : Obligations.HaltedCycleClearsTheStrobe :=
  fun _ d1n d0n hv hh => exec_cycle_of_halted hv hh d1n d0n

/-- Settles O11: LAT is the draw, reduced to TS_W bits. -/
theorem rstPinResetsEveryRegister : Obligations.RstPinResetsEveryRegister := by
  intro s d1n d0n hv
  have hpos : (0 : Int) < 2 ^ s.par.tsW := by positivity
  exact ⟨drawLat s % 2 ^ s.par.tsW, Int.emod_nonneg _ hpos.ne', Int.emod_lt_of_pos _ hpos, exec_rst hv d1n d0n⟩

/-- R159, R138: 0 has no odd weight, so it is valid under no reading. -/
theorem isValidOf_zero (wide : IsValidWide) : isValidOf wide 0 = false := by
  cases wide <;> decide

/-- Settles O57: the fields are slices of OUT_RAW, and rst clears OUT_RAW. -/
theorem pinsShowTheOutputRegisters : Obligations.PinsShowTheOutputRegisters := by
  refine ⟨fun s => ⟨rfl, rfl, lpbOf_eq _, fcOf_eq _, cnOf_eq _, tpbOf_eq _, rfl, rfl⟩, fun s s' d1n d0n hpos h => ?_⟩
  obtain ⟨-, rfl⟩ := exec_rst_next h
  have hfault : (resetCycle s).fault = .none := (resetFault_eq_none_iff s.par).2 hpos
  rw [pins, hfault, show (resetCycle s).outRaw = 0 from rfl, isValidOf_zero]
  rfl

/-! ### The comparator (R162) -/

/-- Settles O54: the difference modulo 2^TS_W is the difference itself, since it is below 2^TS_W. -/
theorem modularComparatorIsExact : Obligations.ModularComparatorIsExact := by
  intro s c cLat hv _ hnow hlat hpast hage
  obtain ⟨-, -, hwide, -⟩ := (bindingValid_iff s.par).1 hv
  have hwide' : (s.par.tInact : Int) + s.par.tPoll < 2 ^ s.par.tsW := mod_cast hwide
  have hdiff : ((s.now : Int) - s.lat) % 2 ^ s.par.tsW = c - cLat := by
    rw [hnow, hlat, ← Int.sub_emod, Int.emod_eq_of_lt hpast (by omega)]
  rw [expiredMod, hdiff, decide_eq_true_iff]

/-! ### The step of the refinement (R163) -/

/-- R163: what an event of cycle `c` does to a running block of the event machine with the ports of the binding. -/
def frameEvent (c : Nat) (e : State) : CycleEvent → State
  | .edge0 => shiftIn false (c : Int) e
  | .edge1 => shiftIn true (c : Int) e
  | .tick => pollTick (c : Int) e

theorem exec_eventAt {e : State} (hl : live e = true) (hA : e.portA = 0x00) (hB : e.portB = 0x01) (c : Nat)
    (x : CycleEvent) : exec (eventAt c x) e = .next (frameEvent c e x) := by
  cases x with
  | edge0 => rw [eventAt, exec_of_live hl rfl, edgeOn, if_pos hA.symm]; rfl
  | edge1 => rw [eventAt, exec_of_live hl rfl, edgeOn, if_neg (by simp [hA]), if_pos hB.symm]; rfl
  | tick => exact exec_tick_of_live hl c

theorem live_of_simulates {c : Nat} {b e : State} (h : Simulates c b e) : live e = true :=
  (live_iff e).2 ⟨h.created, (not_halted_iff e).2 h.fault⟩

theorem not_halted_of_simulates {c : Nat} {b e : State} (h : Simulates c b e) : halted b = false :=
  (not_halted_iff b).2 h.faultB

theorem now_cast_of_simulates {c : Nat} {b e : State} (h : Simulates c b e) :
    (b.now : Int) = (c : Int) % 2 ^ b.par.tsW := by
  rw [h.now]; push_cast; rfl

/-- R162: related blocks agree on whether the tick of their cycle fires. -/
theorem fireMod_eq_fire {c : Nat} {b e : State} (h : Simulates c b e) (hp : b.pcnt = 0) :
    fireMod b = fire e c := by
  have hacc := h.acc
  by_cases hzero : e.acc = 0
  · simp [fireMod, fire, idle, hzero, ← hacc]
  · obtain ⟨hpast, hage⟩ := h.recent hzero
    have hexact := modularComparatorIsExact b c e.lat h.params h.timeoutB (now_cast_of_simulates h) h.lat
      (by omega) (by omega)
    rw [Bool.eq_iff_iff, fire_iff, fireMod, Bool.and_eq_true, hexact, h.timeout, h.timeoutB]
    simp [idle, ← hacc]

theorem simulates_clearStrobe {c : Nat} {b e : State} (h : Simulates c b e) : Simulates c (clearStrobe b) e :=
  { h with }

/-- R162: the age of an edge in its own cycle is 0. -/
theorem simulates_shiftIn {c : Nat} {b e : State} (h : Simulates c b e) (bit : Bool) :
    Simulates c (shiftIn bit b.now b) (shiftIn bit c e) :=
  { h with
    acc := by rw [shiftIn_acc, shiftIn_acc, h.par, h.acc]
    lat := (now_cast_of_simulates h)
    recent := fun _ => by
      obtain ⟨hvalid, -⟩ := (bindingValid_iff b.par).1 h.params
      have := h.pcnt
      have : (shiftIn bit b.now b).pcnt ≤ b.par.tPoll := by rw [shiftIn_pcnt]; omega
      rw [shiftIn_par, shiftIn_lat]
      omega }

/-- R110, R157: a tick that fires, on both sides. -/
theorem simulates_finalize {c : Nat} {b e : State} (h : Simulates c b e) :
    Simulates c (finalizeToPins b) (finalize e) :=
  { h with
    acc := rfl
    out := by rw [finalize_out, finalizeToPins_out, h.out, h.acc, h.subs, h.subsB]
    recent := fun hacc => absurd rfl hacc }

/-- R163: an event of a cycle keeps the simulation. -/
theorem simulates_event {c : Nat} {b e : State} (h : Simulates c b e) {x : CycleEvent} (hx : x = .tick → b.pcnt = 0) :
    Simulates c (applyCycleEvent b x) (frameEvent c e x) := by
  cases x with
  | edge0 => exact simulates_shiftIn h false
  | edge1 => exact simulates_shiftIn h true
  | tick =>
    rw [applyCycleEvent, frameEvent, pollTick, fireMod_eq_fire h (hx rfl)]
    split
    · exact simulates_finalize h
    · exact h

/-- R162: no frame is left over whose last edge is more than the timeout old. -/
def Settled (c : Nat) (e : State) : Prop := e.acc ≠ 0 → (c : Int) - e.lat ≤ e.tInact

/-- Every event leaves it so: an edge has its own time, and a tick finalizes what is older. -/
theorem settled_frameEvent {c : Nat} {e : State} (ht : 0 ≤ e.tInact) (x : CycleEvent) :
    Settled c (frameEvent c e x) := by
  cases x with
  | edge0 => intro _; simpa [frameEvent] using ht
  | edge1 => intro _; simpa [frameEvent] using ht
  | tick =>
    rcases pollTick_cases c e with ⟨-, -, he⟩ | ⟨hwait, he⟩ <;> rw [frameEvent, he]
    · exact fun hacc => absurd rfl hacc
    · exact fun hacc => hwait.resolve_left hacc

/-- R163: the events of a cycle, one after another. -/
theorem simulates_events {c : Nat} {b e : State} (h : Simulates c b e) {events : List CycleEvent}
    (hdue : .tick ∈ events → b.pcnt = 0) :
    ∃ e', runEvents (events.map (eventAt c)) e = .next e' ∧
      Simulates c (events.foldl applyCycleEvent b) e' ∧ (Settled c e ∨ events ≠ [] → Settled c e') := by
  induction events generalizing b e with
  | nil => exact ⟨e, rfl, h, fun hs => hs.resolve_right (fun hne => hne rfl)⟩
  | cons x events ih =>
    have hx : x = .tick → b.pcnt = 0 := by rintro rfl; exact hdue List.mem_cons_self
    obtain ⟨e', hrun, hsim, hsettled⟩ := ih (simulates_event h hx)
      (by rw [applyCycleEvent_pcnt]; exact fun hmem => hdue (List.mem_cons_of_mem _ hmem))
    refine ⟨e', ?_, hsim, fun _ => hsettled (.inl (settled_frameEvent (by rw [h.timeout]; omega) x))⟩
    rw [List.map_cons, runEvents_cons (exec_eventAt (live_of_simulates h) h.portA h.portB c x), hrun]

/-- R156: the divider counts down from T_POLL - 1 to 0 and is reloaded. -/
theorem pollDivider_succ {tPoll : Nat} (hpoll : 1 ≤ tPoll) (c : Nat) :
    (if tPoll - 1 - c % tPoll = 0 then tPoll - 1 else tPoll - 1 - c % tPoll - 1) = tPoll - 1 - (c + 1) % tPoll := by
  have hlt : c % tPoll < tPoll := Nat.mod_lt _ hpoll
  rw [← Nat.mod_add_mod c]
  by_cases hlast : c % tPoll + 1 = tPoll
  · rw [hlast, Nat.mod_self, if_pos (by omega)]; rfl
  · rw [Nat.mod_eq_of_lt (by omega : c % tPoll + 1 < tPoll), if_neg (by omega)]; omega

theorem one_le_tPoll {par : Config} (h : bindingValid par = true) : 1 ≤ par.tPoll := by
  obtain ⟨-, -, hpoll⟩ := (configValid_iff par).1 (configValid_of_bindingValid h)
  exact hpoll

/-- R155, R156: at the end of a cycle the counters go to the next one. The bound on the age of the last edge still
holds at the next tick, since a tick leaves no frame over that is more than the timeout old. -/
theorem simulates_advance {c : Nat} {b e : State} (h : Simulates c b e) (hsettled : b.pcnt = 0 → Settled c e)
    (d1n d0n : Bool) (draws : Nat) : Simulates (c + 1) (advance d1n d0n { b with draws := draws }) e := by
  have hpoll := one_le_tPoll h.params
  have hpcnt : (advance d1n d0n { b with draws := draws }).pcnt =
      if b.pcnt = 0 then b.par.tPoll - 1 else b.pcnt - 1 := by simp [tickDue]
  refine { h with now := ?_, pcnt := ?_, recent := fun hacc => ?_ }
  · rw [advance_now, h.now, Nat.mod_add_mod]; rfl
  · rw [hpcnt, h.pcnt]; exact pollDivider_succ hpoll c
  · obtain ⟨hpast, hage⟩ := h.recent hacc
    rw [hpcnt, advance_par]
    by_cases hp : b.pcnt = 0
    · have hlast := hsettled hp hacc
      rw [h.timeout] at hlast
      rw [if_pos hp]; push_cast; omega
    · rw [if_neg hp]; push_cast; omega

/-- R163: what the event machine emits in a cycle is what the pins show after it. -/
theorem out_map_raw {b : State} {d1n d0n : Bool} :
    (liveCycle d1n d0n b).out.map (·.raw) = b.out.map (·.raw) ++
      (if (pins (liveCycle d1n d0n b)).cardStb then [(pins (liveCycle d1n d0n b)).cardRaw] else []) := by
  rw [pins]
  cases hstb : (liveCycle d1n d0n b).outStb with
  | true =>
    obtain ⟨-, -, hout, -⟩ := liveCycle_strobe hstb
    rw [hout, List.map_append]; rfl
  | false => rw [(liveCycle_no_strobe hstb).1]; simp

/-- R163: one cycle of related blocks. -/
theorem simulates_liveCycle {c : Nat} {b e : State} (h : Simulates c b e) (d1n d0n : Bool) :
    ∃ e', runEvents ((cycleEvents b d1n d0n).map (eventAt c)) e = .next e' ∧
      Simulates (c + 1) (liveCycle d1n d0n b) e' := by
  obtain ⟨e', hrun, hsim, hsettled⟩ := simulates_events (simulates_clearStrobe h) (events := cycleEvents b d1n d0n)
    (by rw [mem_cycleEvents]; simp [present, tickDue])
  obtain ⟨draws, hlive⟩ := liveCycle_eq d1n d0n b
  refine ⟨e', hrun, ?_⟩
  rw [hlive]
  refine simulates_advance hsim (fun hp => hsettled (.inr (List.ne_nil_of_mem (a := .tick) ?_))) d1n d0n draws
  rw [mem_cycleEvents, present, tickDue, ← cycleApplied_pcnt d1n d0n b]
  exact decide_eq_true hp

/-- R163, R212: rst and CREATE with the ports and the timeout of the binding give related blocks; LAT is the same draw on
both sides (logs 3, 5). -/
theorem simulates_rst {s : State} (hv : bindingValid s.par = true) (hpos : 0 < s.par.tInact) :
    ∃ e, exec (.create (some 0x00) (some 0x01) (some (s.par.tInact : Int))) s = .next e ∧
      Simulates 0 (resetCycle s) e := by
  have hnone : createCause s.par (some 0x00) (some 0x01) (some (s.par.tInact : Int)) = none := by
    rw [createCause_of_distinct _ _ (by decide), if_neg (by rw [timeoutArg]; omega)]
  exact ⟨_, exec_create_of_no_cause (configValid_of_bindingValid hv) hnone,
    { params := hv, legal := hpos, par := rfl, created := rfl, portA := rfl, portB := rfl, timeout := rfl
      timeoutB := rfl, fault := rfl, faultB := (resetFault_eq_none_iff s.par).2 hpos, acc := rfl, lat := rfl, out := rfl, subs := rfl
      subsB := rfl, now := (Nat.zero_mod _).symm, pcnt := by rw [Nat.zero_mod]; rfl, recent := fun h => absurd rfl h }⟩

/-- Settles O58: rst and CREATE give related blocks, and each event of a cycle keeps them related. -/
theorem everyCycleKeepsTheSimulation : Obligations.EveryCycleKeepsTheSimulation := by
  refine ⟨fun s b d1n d0n hpos h => ?_, fun c b e d1n d0n h => ?_⟩
  · obtain ⟨hv, rfl⟩ := exec_rst_next h
    exact simulates_rst hv hpos
  · obtain ⟨e', hrun, hsim⟩ := simulates_liveCycle h d1n d0n
    refine ⟨_, e', execCycle_live h.params (not_halted_of_simulates h) d1n d0n, hrun, hsim, ?_⟩
    rw [hsim.out, h.out, out_map_raw]

/-! ### A run of the binding (R163) -/

/-- R7: a run does not write the static parameters. -/
theorem runEvents_par {events : List Instr} {s s' : State} (h : runEvents events s = .next s') : s'.par = s.par := by
  induction events generalizing s with
  | nil => cases h; rfl
  | cons i events ih =>
    obtain ⟨t, hexec, hrun⟩ := runEvents_cons_next h
    rw [ih hrun, exec_par hexec]

/-- R163: from related blocks a run of cycles and the events of these cycles leave related blocks, and the event machine
emits what the pins show. -/
theorem simulates_run {c : Nat} {b e : State} (h : Simulates c b e) (samples : List (Bool × Bool)) :
    ∃ b' e', runEvents (cyclesOf samples) b = .next b' ∧ runEvents (bindingEvents c samples b) e = .next e' ∧
      Simulates (c + samples.length) b' e' ∧ e'.out.map (·.raw) = e.out.map (·.raw) ++ shownRaws samples b := by
  induction samples generalizing c b e with
  | nil => exact ⟨b, e, rfl, rfl, h, by simp [shownRaws]⟩
  | cons sample samples ih =>
    obtain ⟨d1n, d0n⟩ := sample
    obtain ⟨e1, hevents, hsim⟩ := simulates_liveCycle h d1n d0n
    obtain ⟨b', e', hcycles, hrun, hend, hout⟩ := ih hsim
    refine ⟨b', e', ?_, ?_, ?_, ?_⟩
    · exact (runEvents_cons (execCycle_live h.params (not_halted_of_simulates h) d1n d0n) _).trans hcycles
    · exact (runEvents_append hevents _).trans hrun
    · rwa [List.length_cons, Nat.add_comm samples.length, ← Nat.add_assoc]
    · rw [hout, hsim.out, h.out, out_map_raw, List.append_assoc]; rfl

theorem resetCycle_par (s : State) : (resetCycle s).par = s.par := rfl

/-! ### The time base and the poll divider (R155, R156, R229) -/

/-- R156: the divider is at 0 in the cycles T_POLL - 1, 2 T_POLL - 1 and so on. -/
theorem pollDivider_eq_zero_iff {tPoll : Nat} (hpoll : 1 ≤ tPoll) (c : Nat) :
    tPoll - 1 - c % tPoll = 0 ↔ ∃ k : Nat, (c : Int) = ((k : Int) + 1) * tPoll - 1 := by
  have hlt : c % tPoll < tPoll := Nat.mod_lt _ hpoll
  constructor
  · intro h
    refine ⟨c / tPoll, ?_⟩
    have hc := Nat.div_add_mod c tPoll
    have hmul : ((c / tPoll : Nat) : Int) * tPoll = ((tPoll * (c / tPoll) : Nat) : Int) := by push_cast; ring
    rw [add_mul, one_mul, hmul]
    omega
  · rintro ⟨k, hk⟩
    have hmul : (k : Int) * tPoll = ((k * tPoll : Nat) : Int) := by push_cast; rfl
    rw [add_mul, one_mul, hmul] at hk
    have hc : c = tPoll - 1 + k * tPoll := by omega
    rw [hc, Nat.add_mul_mod_self_right, Nat.mod_eq_of_lt (by omega)]
    omega

/-- Settles O55: the run of cycles keeps the simulation, which holds NOW and PCNT at those of its cycle. -/
theorem timeBaseAndPollDivider : Obligations.TimeBaseAndPollDivider := by
  intro s s0 d1n d0n samples hpos hrst times
  obtain ⟨hv, rfl⟩ := exec_rst_next hrst
  obtain ⟨e, -, hsim⟩ := simulates_rst hv hpos
  obtain ⟨b, e', hrun, -, hend, -⟩ := simulates_run hsim samples
  have hpar : b.par = s.par := (runEvents_par hrun).trans (resetCycle_par s)
  have hnow := hend.now
  have hpcnt := hend.pcnt
  rw [hpar, Nat.zero_add] at hnow hpcnt
  have hstep (k : Nat) : times (k + 1) - times k = s.par.tPoll := by simp only [times]; push_cast; ring
  refine ⟨⟨b, hrun, hnow, hpcnt, ?_⟩, fun k => (hstep k).ge, ⟨?_, fun k => (hstep k).le⟩⟩
  · rw [hpcnt]; exact pollDivider_eq_zero_iff (one_le_tPoll hv) _
  · simp [times]

/-! ### The events of a run (R163) -/

theorem bindingEvents_cons (c : Nat) (sample : Bool × Bool) (samples : List (Bool × Bool)) (s : State) :
    bindingEvents c (sample :: samples) s =
      (cycleEvents s sample.1 sample.2).map (eventAt c) ++
        bindingEvents (c + 1) samples (liveCycle sample.1 sample.2 s) := rfl

theorem mem_bindingEvents {c : Nat} {samples : List (Bool × Bool)} {s : State} {i : Instr}
    (h : i ∈ bindingEvents c samples s) : ∃ k x, c ≤ k ∧ i = eventAt k x := by
  induction samples generalizing c s with
  | nil => cases h
  | cons sample samples ih =>
    rw [bindingEvents_cons] at h
    rcases List.mem_append.1 h with h | h
    · obtain ⟨x, -, rfl⟩ := List.mem_map.1 h
      exact ⟨c, x, Nat.le_refl c, rfl⟩
    · obtain ⟨k, x, hk, rfl⟩ := ih h
      exact ⟨k, x, by omega, rfl⟩

@[simp] theorem eventTime_eventAt (c : Nat) (x : CycleEvent) : eventTime (eventAt c x) = some (c : Int) := by
  cases x <;> rfl

/-- R155, R163: the times of the events of a run do not decrease. -/
theorem mono_bindingEvents (c : Nat) (samples : List (Bool × Bool)) (s : State) : Mono (bindingEvents c samples s) := by
  induction samples generalizing c s with
  | nil => exact List.Pairwise.nil
  | cons sample samples ih =>
    have hcycle : ((cycleEvents s sample.1 sample.2).map (eventAt c)).filterMap eventTime =
        (cycleEvents s sample.1 sample.2).map fun _ => (c : Int) := by
      simp [List.filterMap_map]
    rw [Mono, bindingEvents_cons, List.filterMap_append, hcycle, List.pairwise_append]
    refine ⟨List.pairwise_map.2 (List.pairwise_of_forall fun _ _ => le_refl _), ih _ _, fun t ht u hu => ?_⟩
    obtain ⟨-, -, rfl⟩ := List.mem_map.1 ht
    obtain ⟨i, hi, htime⟩ := List.mem_filterMap.1 hu
    obtain ⟨k, x, hk, rfl⟩ := mem_bindingEvents hi
    rw [eventTime_eventAt] at htime
    cases htime
    omega

/-- R156: the tick of a cycle, if one is due. -/
theorem filterMap_tickTime_cycle (c : Nat) (s : State) (d1n d0n : Bool) :
    ((cycleEvents s d1n d0n).map (eventAt c)).filterMap tickTime = if s.pcnt = 0 then [(c : Int)] else [] := by
  have edges (bits : List Bool) : ((bits.map bitEvent).map (eventAt c)).filterMap tickTime = [] := by
    simp only [List.filterMap_eq_nil_iff, List.mem_map]
    rintro _ ⟨_, ⟨bit, -, rfl⟩, rfl⟩
    cases bit <;> rfl
  obtain ⟨before, after, hsplit⟩ := exists_cycleSplit s d1n d0n
  rw [hsplit.events]
  simp only [List.map_append, List.filterMap_append, edges, tickEvents]
  split <;> rfl

/-- R156, R163: the ticks of a run are in the cycles at which the divider is at 0. -/
theorem filterMap_tickTime_bindingEvents {tPoll : Nat} (hpoll : 1 ≤ tPoll) {c : Nat} {s : State}
    (hpar : s.par.tPoll = tPoll) (hpcnt : s.pcnt = tPoll - 1 - c % tPoll) (samples : List (Bool × Bool)) :
    (bindingEvents c samples s).filterMap tickTime =
      ((List.range' c samples.length).filter fun k => k % tPoll == tPoll - 1).map fun (k : Nat) => (k : Int) := by
  induction samples generalizing c s with
  | nil => rfl
  | cons sample samples ih =>
    have hnext : (liveCycle sample.1 sample.2 s).pcnt = tPoll - 1 - (c + 1) % tPoll := by
      rw [liveCycle_pcnt, hpcnt, hpar]; exact pollDivider_succ hpoll c
    have hrest := ih (s := liveCycle sample.1 sample.2 s) (by rw [liveCycle_par, hpar]) hnext
    have hdue : s.pcnt = 0 ↔ c % tPoll = tPoll - 1 := by
      have : c % tPoll < tPoll := Nat.mod_lt _ hpoll
      omega
    rw [bindingEvents_cons, List.filterMap_append, filterMap_tickTime_cycle, hrest, List.length_cons, List.range'_succ,
      List.filter_cons]
    by_cases h : c % tPoll = tPoll - 1
    · simp [h, hdue.2 h]
    · simp [h, mt hdue.1 h]

/-- R39: an event of a cycle writes ACC, LAT and OUT of the event machine only. -/
theorem frameEvent_frame (c : Nat) (e : State) (x : CycleEvent) :
    frameEvent c e x =
      { e with acc := (frameEvent c e x).acc, lat := (frameEvent c e x).lat, out := (frameEvent c e x).out } := by
  cases x with
  | edge0 => rfl
  | edge1 => rfl
  | tick =>
    rcases pollTick_cases c e with ⟨-, -, he⟩ | ⟨-, he⟩ <;> rw [frameEvent, he]
    rfl

/-- R105, R106, R110: an edge sets LAT, and a tick keeps it. -/
theorem getD_lastEdgeTime_cons (c : Nat) (x : CycleEvent) (events : List Instr) (e : State) :
    (lastEdgeTime (eventAt c x :: events)).getD e.lat = (lastEdgeTime events).getD (frameEvent c e x).lat := by
  cases x with
  | edge0 => cases h : lastEdgeTime events <;> simp [lastEdgeTime, h, eventAt, frameEvent]
  | edge1 => cases h : lastEdgeTime events <;> simp [lastEdgeTime, h, eventAt, frameEvent]
  | tick =>
    have hlat : (pollTick c e).lat = e.lat := by
      rcases pollTick_cases c e with ⟨-, -, he⟩ | ⟨-, he⟩ <;> rw [he]
      rfl
    rw [eventAt, lastEdgeTime_cons_tick, frameEvent, hlat]

/-- R105, R106, R163: LAT of the event machine is the time of the last edge. -/
theorem lat_of_runEvents {events : List Instr} {e e' : State} (hevents : ∀ i ∈ events, ∃ k x, i = eventAt k x)
    (hl : live e = true) (hA : e.portA = 0x00) (hB : e.portB = 0x01) (hrun : runEvents events e = .next e') :
    e'.lat = (lastEdgeTime events).getD e.lat := by
  induction events generalizing e with
  | nil => cases hrun; rfl
  | cons i events ih =>
    obtain ⟨⟨k, x, rfl⟩, hrest⟩ := List.forall_mem_cons.1 hevents
    rw [runEvents_cons (exec_eventAt hl hA hB k x)] at hrun
    rw [getD_lastEdgeTime_cons]
    have hframe := frameEvent_frame k e x
    exact ih hrest (by rw [hframe]; exact hl) (by rw [hframe]; exact hA) (by rw [hframe]; exact hB) hrun

/-- Settles O59: the run of the cycles and the run of their events keep the simulation, from rst and CREATE on. -/
theorem bindingRefinesTheEventMachine : Obligations.BindingRefinesTheEventMachine := by
  intro s s0 d1n d0n samples hpos hrst events
  obtain ⟨hv, rfl⟩ := exec_rst_next hrst
  obtain ⟨e0, hcreate, hsim⟩ := simulates_rst hv hpos
  obtain ⟨b, e, hcycles, hrun, hend, hout⟩ := simulates_run hsim samples
  have hpar : b.par = s.par := (runEvents_par hcycles).trans (resetCycle_par s)
  refine ⟨b, e, hcycles, (runEvents_cons hcreate _).trans hrun, hend.acc, ?_, hend.fault, hend.faultB, hend.subs,
    fun t ht => ?_, mono_bindingEvents 0 samples _, ?_⟩
  · rw [hout, hsim.out]; rfl
  · have hlat : e.lat = t := by
      rw [lat_of_runEvents (fun i hi => ?_) (live_of_simulates hsim) hsim.portA hsim.portB hrun]
      · rw [show lastEdgeTime _ = some t from ht]; rfl
      · obtain ⟨k, x, -, hi⟩ := mem_bindingEvents hi
        exact ⟨k, x, hi⟩
    exact ⟨hlat, by rw [hend.lat, hlat, hpar]⟩
  · rw [List.range_eq_range']
    exact filterMap_tickTime_bindingEvents (s := resetCycle s) (one_le_tPoll hv) rfl hsim.pcnt samples

/-! ### Faults in a run of the binding (R160, R165) -/

/-- R160: a halted block with its strobe at 0 is not changed by cycles. -/
theorem runEvents_cyclesOf_of_halted {s s' : State} (hh : halted s = true) (hstb : s.outStb = false)
    {samples : List (Bool × Bool)} (h : runEvents (cyclesOf samples) s = .next s') : s' = s := by
  have hclear : clearStrobe s = s := by rw [clearStrobe, ← hstb]
  induction samples with
  | nil => cases h; rfl
  | cons sample samples ih =>
    obtain ⟨t, hexec, hrun⟩ := runEvents_cons_next h
    obtain ⟨-, ⟨hrst, -⟩ | ⟨-, -, rfl⟩ | ⟨-, hn, -⟩⟩ := execCycle_next hexec
    · cases hrst
    · rw [hclear] at hrun; exact ih hrun
    · simp [hh] at hn

/-- R165(a): a cycle with rst = 0 does not write FAULT. -/
theorem runEvents_cyclesOf_fault {s s' : State} {samples : List (Bool × Bool)}
    (h : runEvents (cyclesOf samples) s = .next s') : s'.fault = s.fault := by
  induction samples generalizing s with
  | nil => cases h; rfl
  | cons sample samples ih =>
    obtain ⟨t, hexec, hrun⟩ := runEvents_cons_next h
    rw [ih hrun]
    obtain ⟨-, ⟨hrst, -⟩ | ⟨-, -, rfl⟩ | ⟨-, -, rfl⟩⟩ := execCycle_next hexec
    · cases hrst
    · rfl
    · exact liveCycle_fault ..

/-- Settles O60: a cycle does not write FAULT, and rst can leave no InvalidPortError; a block that rst halts stays as it
is. -/
theorem bindingNeverFaultsInACycle : Obligations.BindingNeverFaultsInACycle := by
  intro s s0 b d1n d0n samples hrst hrun
  obtain ⟨-, rfl⟩ := exec_rst_next hrst
  have hfault := runEvents_cyclesOf_fault hrun
  have hreset : (resetCycle s).fault = resetFault s.par := rfl
  refine ⟨hfault, fun p => ?_, fun hzero => ?_⟩
  · rw [hfault, hreset, resetFault]; split <;> simp
  · have hcause : (resetCycle s).fault = .configurationError .timeoutNotPositive := if_pos hzero
    rw [runEvents_cyclesOf_of_halted (by simp [halted, hcause]) rfl hrun]
    exact ⟨hcause, rfl, rfl⟩

end Sys2Proof.Machine
end

section
/-! The statement of spec/60_exceptions.md: the bits FAULT reads as (R26, R181, R184). -/

namespace Sys2Proof.Machine

/-! ### The values of FAULT.code (R184) -/

/-- R184: code 0 is read exactly when there is no fault. -/
theorem faultCode_eq_zero_iff (f : FaultReg) : faultCode f = 0b00 ↔ f = .none := by
  cases f <;> simp [faultCode]

/-- R184, log 17: code 3 is not the code of any value of FAULT. -/
theorem faultCode_ne_three (f : FaultReg) : faultCode f ≠ 0b11 := by
  cases f <;> simp [faultCode]

/-- Settles O10: the codes and infos are those of the definitions; no value of FAULT has code 3, and only `none` has
code 0. -/
theorem faultReadsAsItsCodes : Obligations.FaultReadsAsItsCodes := by
  have hnone : faultCode .none = 0b00 ∧ faultInfo .none = 0 := ⟨rfl, rfl⟩
  have hport (p : Nat) : faultCode (.invalidPort p) = 0b10 ∧ faultInfo (.invalidPort p) = p := ⟨rfl, rfl⟩
  exact ⟨hnone, fun _ => rfl, rfl, rfl, rfl, rfl, hport, faultCode_ne_three, fun f => (faultCode_eq_zero_iff f).1⟩

end Sys2Proof.Machine
end

section
/-! The statements of spec/70_reset_and_hazards.md: the latency of a finalize (R226), and which gaps separate frames
(R227). -/

namespace Sys2Proof.Machine

open Sys2Proof.Safety

/-! ### Runs of the first ticks of an unending sequence (R115, R229) -/

theorem firstTicks_eq_map (ticks : Nat → Int) (n : Nat) :
    firstTicks ticks n = ((List.range n).map ticks).map .tick := by
  rw [firstTicks, List.map_map]
  rfl

/-- R109: ticks none of which is over the timeout change nothing. -/
theorem runEvents_firstTicks_of_waiting {s : State} (hl : live s = true) {ticks : Nat → Int} {n : Nat}
    (h : ∀ j < n, ticks j ≤ s.lat + s.tInact) : runEvents (firstTicks ticks n) s = .next s := by
  rw [firstTicks_eq_map]
  refine runEvents_ticks_of_fixed hl fun now hnow => pollTick_of_waiting ?_
  obtain ⟨j, hj, rfl⟩ := List.mem_map.1 hnow
  have := h j (List.mem_range.1 hj)
  omega

/-- R115: ticks one of which is over the timeout finalize once. -/
theorem runEvents_firstTicks_of_expired {s : State} (hl : live s = true) (hacc : s.acc ≠ 0) {ticks : Nat → Int}
    {j n : Nat} (hj : j < n) (h : s.lat + s.tInact < ticks j) :
    runEvents (firstTicks ticks n) s = .next (finalize s) := by
  rw [firstTicks_eq_map]
  exact runEvents_ticks_of_expired hl hacc
    ⟨ticks j, List.mem_map_of_mem (List.mem_range.2 hj), lt_tsub_iff_left.2 h⟩

/-- R229: the tick after those up to a time comes at most `pMax` after it; the one before the first is at `start`. -/
theorem tickBound_le {pMax start t : Int} {ticks : Nat → Int} (hb : TickBound pMax start ticks) (hstart : start ≤ t)
    {n : Nat} (h : ∀ j < n, ticks j ≤ t) : ticks n ≤ t + pMax := by
  cases n with
  | zero =>
    have := hb.first
    omega
  | succ n =>
    have := hb.next n
    have := h n n.lt_succ_self
    omega

/-! ### Finalize latency (R226) -/

/-- Settles O37: the tick is the least one over the timeout, so the one before it, or `start`, is not over it. -/
theorem finalizeLatency : Obligations.FinalizeLatency := by
  intro s ticks hl hacc hpoll hpace
  have hex : ∃ k, s.lat + s.tInact < ticks k := tickPace_unbounded hpace (by exact_mod_cast hpoll) _
  have hbefore (j : Nat) (hj : j < Nat.find hex) : ticks j ≤ s.lat + s.tInact := not_lt.1 (Nat.find_min hex hj)
  refine ⟨Nat.find hex, Nat.find_spec hex, fun n hn => ?_, fun n hn => ?_, fun pMax start hstart hpos hb => ?_⟩
  · exact runEvents_firstTicks_of_waiting hl fun j hj => hbefore j (hj.trans_le hn)
  · exact runEvents_firstTicks_of_expired hl hacc hn (Nat.find_spec hex)
  · exact tickBound_le hb (by omega) hbefore

/-! ### Which gaps separate frames (R227) -/

/-- Settles O38: no tick is later than the edge, so every tick waits, and the edge shifts its bit into the frame. -/
theorem shortGapsNeverSplitAFrame : Obligations.ShortGapsNeverSplitAFrame := by
  intro s nows bit t2 hl _ hticks hgap
  have hwait : runEvents (nows.map .tick) s = .next s :=
    runEvents_ticks_of_fixed hl fun n hn => pollTick_of_waiting ((sub_le_sub_right (hticks n hn) s.lat).trans hgap)
  rw [runEvents_append hwait, runEvents_cons (exec_edge_of_live hl bit t2), runEvents_nil, shiftIn_eq]

/-- R12: a register that holds 1 holds the first bit of a frame. -/
theorem trunc_bit_of_fitsAcc_one {par : Config} (h : fitsAcc par 1) (bit : Bool) :
    trunc par bit.toNat = bit.toNat := by
  cases bit with
  | false => exact trunc_zero par
  | true => exact trunc_of_fitsAcc h

/-- Settles O39: if no tick before the edge were over the timeout, the next tick would come before the edge. -/
theorem longPausesAlwaysSeparateFrames : Obligations.LongPausesAlwaysSeparateFrames := by
  intro s ticks n start pMax bit t2 hl hacc hfits hstart hpos hb hnext hgap
  have hover : ∃ j < n, s.lat + s.tInact < ticks j := by
    by_contra! hwait
    have hle : ticks n ≤ s.lat + s.tInact + pMax := tickBound_le hb (by omega) hwait
    rw [FrameGap] at hgap
    omega
  obtain ⟨j, hj, hlate⟩ := hover
  have hlive : live (finalize s) = true := (live_finalize s).trans hl
  rw [runEvents_append (runEvents_firstTicks_of_expired hl hacc hj hlate),
    runEvents_cons (exec_edge_of_live hlive bit t2), runEvents_nil, shiftIn_eq, finalize_acc, finalize_par,
    Nat.mul_zero, Nat.zero_add, trunc_bit_of_fitsAcc_one hfits]
  rfl

end Sys2Proof.Machine
end
